-- ==== Sys2Proof/Word.lean ====
section
/-! DEFINITION. The unsigned widths of rule R6 (00_scope.md): u1 is `Bool`, u4, u8, u12 and u16 are bit vectors.
There are no signed values anywhere in this hardware. -/

namespace Sys2Proof

/-- u4: the sprite height `n` and the nibbles of an opcode (R6, R62). -/
abbrev Nibble := BitVec 4

/-- u8: a memory cell, a V-register, a timer, the constant `kk` (R6). -/
abbrev Byte := BitVec 8

/-- u12: the address field `nnn` of an opcode (R62). -/
abbrev Addr := BitVec 12

/-- u16: `I`, `PC`, a return address, an opcode (R6). -/
abbrev Word := BitVec 16

/-- The number of a V-register, 0 to 15: all sixteen values name a register (R14). -/
abbrev Reg := Fin 16

end Sys2Proof
end

