-- ==== Sys2Proof/Syntax.lean ====
section
/-! DEFINITION. The instructions: one constructor per row of spec/opcode_table.json, in the order of rule R65
(30_encoding.md), with the fields of rule R62 as operands. -/

namespace Sys2Proof

/-- The 34 instructions of R65. The operand types hold exactly the values the fields can take (R62, R63). -/
inductive Instr where
  /-- `00E0` (R130): clear the display. -/
  | cls
  /-- `00EE` (R90): return from subroutine. -/
  | ret
  /-- `1nnn` (R91): jump. -/
  | jpAddr (nnn : Addr)
  /-- `2nnn` (R92): call subroutine. -/
  | callAddr (nnn : Addr)
  /-- `3xkk` (R94): skip if register equals constant. -/
  | seVxByte (x : Reg) (kk : Byte)
  /-- `4xkk` (R95): skip if register differs from constant. -/
  | sneVxByte (x : Reg) (kk : Byte)
  /-- `5xy0` (R96): skip if registers equal. -/
  | seVxVy (x y : Reg)
  /-- `6xkk` (R102): load constant. -/
  | ldVxByte (x : Reg) (kk : Byte)
  /-- `7xkk` (R103): add constant. -/
  | addVxByte (x : Reg) (kk : Byte)
  /-- `8xy0` (R104): copy register. -/
  | ldVxVy (x y : Reg)
  /-- `8xy1` (R105): bitwise or. -/
  | orVxVy (x y : Reg)
  /-- `8xy2` (R106): bitwise and. -/
  | andVxVy (x y : Reg)
  /-- `8xy3` (R107): bitwise exclusive or. -/
  | xorVxVy (x y : Reg)
  /-- `8xy4` (R108): add with carry flag. -/
  | addVxVy (x y : Reg)
  /-- `8xy5` (R109): subtract, flag = no borrow. -/
  | subVxVy (x y : Reg)
  /-- `8xy6` (R110): shift right by one. The field `y` is in the encoding and is ignored (R68). -/
  | shrVx (x y : Reg)
  /-- `8xy7` (R111): reverse subtract, flag = no borrow. -/
  | subnVxVy (x y : Reg)
  /-- `8xyE` (R112): shift left by one. The field `y` is in the encoding and is ignored (R68). -/
  | shlVx (x y : Reg)
  /-- `9xy0` (R97): skip if registers differ. -/
  | sneVxVy (x y : Reg)
  /-- `Annn` (R120): load index register. -/
  | ldIAddr (nnn : Addr)
  /-- `Bnnn` (R93): jump with offset. -/
  | jpV0Addr (nnn : Addr)
  /-- `Cxkk` (R113): masked random byte. -/
  | rndVxByte (x : Reg) (kk : Byte)
  /-- `Dxyn` (R131): draw sprite. -/
  | drwVxVyNibble (x y : Reg) (n : Nibble)
  /-- `Ex9E` (R140): skip if key down. -/
  | skpVx (x : Reg)
  /-- `ExA1` (R141): skip if key up. -/
  | sknpVx (x : Reg)
  /-- `Fx07` (R143): read delay timer. -/
  | ldVxDt (x : Reg)
  /-- `Fx0A` (R142): wait for a key. -/
  | ldVxK (x : Reg)
  /-- `Fx15` (R144): write delay timer. -/
  | ldDtVx (x : Reg)
  /-- `Fx18` (R145): write sound timer. -/
  | ldStVx (x : Reg)
  /-- `Fx1E` (R121): add register to index, with range flag. -/
  | addIVx (x : Reg)
  /-- `Fx29` (R122): point `I` at a font glyph. -/
  | ldFVx (x : Reg)
  /-- `Fx33` (R123): store three decimal digits. -/
  | ldBVx (x : Reg)
  /-- `Fx55` (R124): store registers V0 to Vx. -/
  | ldMemIVx (x : Reg)
  /-- `Fx65` (R125): load registers V0 to Vx. -/
  | ldVxMemI (x : Reg)
  deriving DecidableEq, Repr

/-- The names a rejected word is given: the families of R67 in which some word matches no pattern. Every such word
is an unknown opcode and all behave alike (R66, R68). -/
inductive UnknownWord where
  /-- Family 0, but neither 0x00E0 nor 0x00EE. -/
  | family0
  /-- Family 5 with a low nibble other than 0. -/
  | family5
  /-- Family 8 with a low nibble in 8 to D, or F. -/
  | family8
  /-- Family 9 with a low nibble other than 0. -/
  | family9
  /-- Family E with a low byte other than 0x9E and 0xA1. -/
  | familyE
  /-- Family F with a low byte that no pattern of family F has. -/
  | familyF
  deriving DecidableEq, Repr

end Sys2Proof
end

