-- ==== Sys2Proof/WellFormed.lean ====
section
/-! DEFINITION. Which words are instructions: the opcode map of rule R65 (30_encoding.md) as data, apart from the
decoder. A term of `Instr` needs no check of its own: every value of every field is legal (R14, R63, R68), and
the operand types hold exactly these values. What can be ill-formed is a word, and `wordWellFormed` refuses it. -/

namespace Sys2Proof

/-- One row of R65: a word `w` is the instruction iff `w and mask = match`. -/
structure OpcodeRow where
  pattern : String
  mask    : Word
  value   : Word
  deriving DecidableEq, Repr

/-- R65: `(w and mask) = match`. -/
def OpcodeRow.covers (r : OpcodeRow) (w : Word) : Bool := w &&& r.mask == r.value

/-- Rows 1 to 9 of R65. -/
def opcodeRowsA : List OpcodeRow :=
  [⟨"00E0", 0xFFFF, 0x00E0⟩, ⟨"00EE", 0xFFFF, 0x00EE⟩, ⟨"1nnn", 0xF000, 0x1000⟩,
   ⟨"2nnn", 0xF000, 0x2000⟩, ⟨"3xkk", 0xF000, 0x3000⟩, ⟨"4xkk", 0xF000, 0x4000⟩,
   ⟨"5xy0", 0xF00F, 0x5000⟩, ⟨"6xkk", 0xF000, 0x6000⟩, ⟨"7xkk", 0xF000, 0x7000⟩]

/-- Rows 10 to 18 of R65. -/
def opcodeRowsB : List OpcodeRow :=
  [⟨"8xy0", 0xF00F, 0x8000⟩, ⟨"8xy1", 0xF00F, 0x8001⟩, ⟨"8xy2", 0xF00F, 0x8002⟩,
   ⟨"8xy3", 0xF00F, 0x8003⟩, ⟨"8xy4", 0xF00F, 0x8004⟩, ⟨"8xy5", 0xF00F, 0x8005⟩,
   ⟨"8xy6", 0xF00F, 0x8006⟩, ⟨"8xy7", 0xF00F, 0x8007⟩, ⟨"8xyE", 0xF00F, 0x800E⟩]

/-- Rows 19 to 25 of R65. -/
def opcodeRowsC : List OpcodeRow :=
  [⟨"9xy0", 0xF00F, 0x9000⟩, ⟨"Annn", 0xF000, 0xA000⟩, ⟨"Bnnn", 0xF000, 0xB000⟩,
   ⟨"Cxkk", 0xF000, 0xC000⟩, ⟨"Dxyn", 0xF000, 0xD000⟩, ⟨"Ex9E", 0xF0FF, 0xE09E⟩,
   ⟨"ExA1", 0xF0FF, 0xE0A1⟩]

/-- Rows 26 to 34 of R65. -/
def opcodeRowsD : List OpcodeRow :=
  [⟨"Fx07", 0xF0FF, 0xF007⟩, ⟨"Fx0A", 0xF0FF, 0xF00A⟩, ⟨"Fx15", 0xF0FF, 0xF015⟩,
   ⟨"Fx18", 0xF0FF, 0xF018⟩, ⟨"Fx1E", 0xF0FF, 0xF01E⟩, ⟨"Fx29", 0xF0FF, 0xF029⟩,
   ⟨"Fx33", 0xF0FF, 0xF033⟩, ⟨"Fx55", 0xF0FF, 0xF055⟩, ⟨"Fx65", 0xF0FF, 0xF065⟩]

/-- The 34 rows of R65, in its order. -/
def opcodeRows : List OpcodeRow := opcodeRowsA ++ opcodeRowsB ++ opcodeRowsC ++ opcodeRowsD

/-- A word is an instruction iff it matches a row of R65; any other word is an unknown opcode (R66). -/
def wordWellFormed (w : Word) : Bool := opcodeRows.any (·.covers w)

/-- The row of R65 an instruction belongs to. -/
def Instr.row : Instr → OpcodeRow
  | .cls => ⟨"00E0", 0xFFFF, 0x00E0⟩
  | .ret => ⟨"00EE", 0xFFFF, 0x00EE⟩
  | .jpAddr _ => ⟨"1nnn", 0xF000, 0x1000⟩
  | .callAddr _ => ⟨"2nnn", 0xF000, 0x2000⟩
  | .seVxByte _ _ => ⟨"3xkk", 0xF000, 0x3000⟩
  | .sneVxByte _ _ => ⟨"4xkk", 0xF000, 0x4000⟩
  | .seVxVy _ _ => ⟨"5xy0", 0xF00F, 0x5000⟩
  | .ldVxByte _ _ => ⟨"6xkk", 0xF000, 0x6000⟩
  | .addVxByte _ _ => ⟨"7xkk", 0xF000, 0x7000⟩
  | .ldVxVy _ _ => ⟨"8xy0", 0xF00F, 0x8000⟩
  | .orVxVy _ _ => ⟨"8xy1", 0xF00F, 0x8001⟩
  | .andVxVy _ _ => ⟨"8xy2", 0xF00F, 0x8002⟩
  | .xorVxVy _ _ => ⟨"8xy3", 0xF00F, 0x8003⟩
  | .addVxVy _ _ => ⟨"8xy4", 0xF00F, 0x8004⟩
  | .subVxVy _ _ => ⟨"8xy5", 0xF00F, 0x8005⟩
  | .shrVx _ _ => ⟨"8xy6", 0xF00F, 0x8006⟩
  | .subnVxVy _ _ => ⟨"8xy7", 0xF00F, 0x8007⟩
  | .shlVx _ _ => ⟨"8xyE", 0xF00F, 0x800E⟩
  | .sneVxVy _ _ => ⟨"9xy0", 0xF00F, 0x9000⟩
  | .ldIAddr _ => ⟨"Annn", 0xF000, 0xA000⟩
  | .jpV0Addr _ => ⟨"Bnnn", 0xF000, 0xB000⟩
  | .rndVxByte _ _ => ⟨"Cxkk", 0xF000, 0xC000⟩
  | .drwVxVyNibble _ _ _ => ⟨"Dxyn", 0xF000, 0xD000⟩
  | .skpVx _ => ⟨"Ex9E", 0xF0FF, 0xE09E⟩
  | .sknpVx _ => ⟨"ExA1", 0xF0FF, 0xE0A1⟩
  | .ldVxDt _ => ⟨"Fx07", 0xF0FF, 0xF007⟩
  | .ldVxK _ => ⟨"Fx0A", 0xF0FF, 0xF00A⟩
  | .ldDtVx _ => ⟨"Fx15", 0xF0FF, 0xF015⟩
  | .ldStVx _ => ⟨"Fx18", 0xF0FF, 0xF018⟩
  | .addIVx _ => ⟨"Fx1E", 0xF0FF, 0xF01E⟩
  | .ldFVx _ => ⟨"Fx29", 0xF0FF, 0xF029⟩
  | .ldBVx _ => ⟨"Fx33", 0xF0FF, 0xF033⟩
  | .ldMemIVx _ => ⟨"Fx55", 0xF0FF, 0xF055⟩
  | .ldVxMemI _ => ⟨"Fx65", 0xF0FF, 0xF065⟩

/-- A term of `Instr` is well formed when its row is one of the hardware's 34 (R65). All terms are: there is no
reserved field and no illegal register number (R14, R68, 93_implementation_defined.md U17). -/
def Instr.wellFormed (i : Instr) : Bool := opcodeRows.contains i.row

end Sys2Proof
end

