-- ==== Sys2Proof/Decode.lean ====
section
/-! DEFINITION. The decoder and the encoder, from rules R60 to R68 (30_encoding.md). Decoding is a total function
from the 65536 words to one of the 34 instructions or an unknown word, rejected by the name of its family. -/

namespace Sys2Proof

/-! Fields of an opcode (R62). -/

/-- `op[15:12]`. -/
def fieldFamily (op : Word) : Nibble := op.extractLsb' 12 4

/-- `x = op[11:8]`. -/
def fieldX (op : Word) : Reg := (op.extractLsb' 8 4).toFin

/-- `y = op[7:4]`. -/
def fieldY (op : Word) : Reg := (op.extractLsb' 4 4).toFin

/-- `n = op[3:0]`. -/
def fieldN (op : Word) : Nibble := op.extractLsb' 0 4

/-- `kk = op[7:0]`. -/
def fieldKK (op : Word) : Byte := op.extractLsb' 0 8

/-- `nnn = op[11:0]`. -/
def fieldNNN (op : Word) : Addr := op.extractLsb' 0 12

/-! The second-level decoders (R64). -/

/-- Family 0 is keyed on the whole low 12 bits. -/
def decodeFamily0 (op : Word) : Except UnknownWord Instr :=
  match fieldNNN op with
  | 0x0E0#12 => .ok .cls
  | 0x0EE#12 => .ok .ret
  | _ => .error .family0

/-- Family 5 checks that the low nibble is 0 (R66; 90_conflicts.md C3). -/
def decodeFamily5 (op : Word) : Except UnknownWord Instr :=
  match fieldN op with
  | 0x0#4 => .ok (.seVxVy (fieldX op) (fieldY op))
  | _ => .error .family5

/-- Family 8 is keyed on the low nibble. -/
def decodeFamily8 (op : Word) : Except UnknownWord Instr :=
  match fieldN op with
  | 0x0#4 => .ok (.ldVxVy (fieldX op) (fieldY op))
  | 0x1#4 => .ok (.orVxVy (fieldX op) (fieldY op))
  | 0x2#4 => .ok (.andVxVy (fieldX op) (fieldY op))
  | 0x3#4 => .ok (.xorVxVy (fieldX op) (fieldY op))
  | 0x4#4 => .ok (.addVxVy (fieldX op) (fieldY op))
  | 0x5#4 => .ok (.subVxVy (fieldX op) (fieldY op))
  | 0x6#4 => .ok (.shrVx (fieldX op) (fieldY op))
  | 0x7#4 => .ok (.subnVxVy (fieldX op) (fieldY op))
  | 0xE#4 => .ok (.shlVx (fieldX op) (fieldY op))
  | _ => .error .family8

/-- Family 9 checks that the low nibble is 0 (R66; 90_conflicts.md C3). -/
def decodeFamily9 (op : Word) : Except UnknownWord Instr :=
  match fieldN op with
  | 0x0#4 => .ok (.sneVxVy (fieldX op) (fieldY op))
  | _ => .error .family9

/-- Family E is keyed on the low byte. -/
def decodeFamilyE (op : Word) : Except UnknownWord Instr :=
  match fieldKK op with
  | 0x9E#8 => .ok (.skpVx (fieldX op))
  | 0xA1#8 => .ok (.sknpVx (fieldX op))
  | _ => .error .familyE

/-- Family F is keyed on the low byte. -/
def decodeFamilyF (op : Word) : Except UnknownWord Instr :=
  match fieldKK op with
  | 0x07#8 => .ok (.ldVxDt (fieldX op))
  | 0x0A#8 => .ok (.ldVxK (fieldX op))
  | 0x15#8 => .ok (.ldDtVx (fieldX op))
  | 0x18#8 => .ok (.ldStVx (fieldX op))
  | 0x1E#8 => .ok (.addIVx (fieldX op))
  | 0x29#8 => .ok (.ldFVx (fieldX op))
  | 0x33#8 => .ok (.ldBVx (fieldX op))
  | 0x55#8 => .ok (.ldMemIVx (fieldX op))
  | 0x65#8 => .ok (.ldVxMemI (fieldX op))
  | _ => .error .familyF

/-- R64: the top nibble selects the family; families 0, 5, 8, 9, E and F look further. -/
def decode (op : Word) : Except UnknownWord Instr :=
  match fieldFamily op with
  | 0x0#4 => decodeFamily0 op
  | 0x1#4 => .ok (.jpAddr (fieldNNN op))
  | 0x2#4 => .ok (.callAddr (fieldNNN op))
  | 0x3#4 => .ok (.seVxByte (fieldX op) (fieldKK op))
  | 0x4#4 => .ok (.sneVxByte (fieldX op) (fieldKK op))
  | 0x5#4 => decodeFamily5 op
  | 0x6#4 => .ok (.ldVxByte (fieldX op) (fieldKK op))
  | 0x7#4 => .ok (.addVxByte (fieldX op) (fieldKK op))
  | 0x8#4 => decodeFamily8 op
  | 0x9#4 => decodeFamily9 op
  | 0xA#4 => .ok (.ldIAddr (fieldNNN op))
  | 0xB#4 => .ok (.jpV0Addr (fieldNNN op))
  | 0xC#4 => .ok (.rndVxByte (fieldX op) (fieldKK op))
  | 0xD#4 => .ok (.drwVxVyNibble (fieldX op) (fieldY op) (fieldN op))
  | 0xE#4 => decodeFamilyE op
  | _ => decodeFamilyF op

/-- R40, R60: the byte at the lower address is `op[15:8]`, the byte after it `op[7:0]`. -/
def opcodeOfBytes (b0 b1 : Byte) : Word := b0.setWidth 16 <<< 8 ||| b1.setWidth 16

/-- The decoder on the two bytes of an instruction, in the order they lie in memory: total on any bytes. -/
def decodeBytes (b0 b1 : Byte) : Except UnknownWord Instr := decode (opcodeOfBytes b0 b1)

/-! The encoder, from the formats of R61 and the patterns of R65. -/

/-- The four bits of a register number. -/
def regBits (x : Reg) : Nibble := BitVec.ofFin x

/-- Format A: family and `nnn`. -/
def formatA (f : Nibble) (nnn : Addr) : Word := f.setWidth 16 <<< 12 ||| nnn.setWidth 16

/-- Formats XK and X: family, `x` and a low byte, which is `kk` or fixed. -/
def formatXK (f : Nibble) (x : Reg) (kk : Byte) : Word :=
  f.setWidth 16 <<< 12 ||| (regBits x).setWidth 16 <<< 8 ||| kk.setWidth 16

/-- Formats XY and XYN: family, `x`, `y` and a low nibble, which is `n` or fixed. -/
def formatXYN (f : Nibble) (x y : Reg) (n : Nibble) : Word :=
  f.setWidth 16 <<< 12 ||| (regBits x).setWidth 16 <<< 8 ||| (regBits y).setWidth 16 <<< 4 ||| n.setWidth 16

/-- The word of an instruction. -/
def encode : Instr → Word
  | .cls => 0x00E0
  | .ret => 0x00EE
  | .jpAddr nnn => formatA 0x1 nnn
  | .callAddr nnn => formatA 0x2 nnn
  | .seVxByte x kk => formatXK 0x3 x kk
  | .sneVxByte x kk => formatXK 0x4 x kk
  | .seVxVy x y => formatXYN 0x5 x y 0x0
  | .ldVxByte x kk => formatXK 0x6 x kk
  | .addVxByte x kk => formatXK 0x7 x kk
  | .ldVxVy x y => formatXYN 0x8 x y 0x0
  | .orVxVy x y => formatXYN 0x8 x y 0x1
  | .andVxVy x y => formatXYN 0x8 x y 0x2
  | .xorVxVy x y => formatXYN 0x8 x y 0x3
  | .addVxVy x y => formatXYN 0x8 x y 0x4
  | .subVxVy x y => formatXYN 0x8 x y 0x5
  | .shrVx x y => formatXYN 0x8 x y 0x6
  | .subnVxVy x y => formatXYN 0x8 x y 0x7
  | .shlVx x y => formatXYN 0x8 x y 0xE
  | .sneVxVy x y => formatXYN 0x9 x y 0x0
  | .ldIAddr nnn => formatA 0xA nnn
  | .jpV0Addr nnn => formatA 0xB nnn
  | .rndVxByte x kk => formatXK 0xC x kk
  | .drwVxVyNibble x y n => formatXYN 0xD x y n
  | .skpVx x => formatXK 0xE x 0x9E
  | .sknpVx x => formatXK 0xE x 0xA1
  | .ldVxDt x => formatXK 0xF x 0x07
  | .ldVxK x => formatXK 0xF x 0x0A
  | .ldDtVx x => formatXK 0xF x 0x15
  | .ldStVx x => formatXK 0xF x 0x18
  | .addIVx x => formatXK 0xF x 0x1E
  | .ldFVx x => formatXK 0xF x 0x29
  | .ldBVx x => formatXK 0xF x 0x33
  | .ldMemIVx x => formatXK 0xF x 0x55
  | .ldVxMemI x => formatXK 0xF x 0x65

/-- The byte of a word at the lower address (R60): `op[15:8]`. -/
def highByte (w : Word) : Byte := w.extractLsb' 8 8

/-- The byte of a word at the higher address (R60): `op[7:0]`. -/
def lowByte (w : Word) : Byte := w.extractLsb' 0 8

/-- The opcode table's number of an instruction (its bits from `nbits` up are 0) as the opcode it is. -/
def tableWord (nbits w : Nat) : Word := BitVec.ofNat 16 (w % 2 ^ nbits)

/-- What the decoder reads from the two bytes of a table word, laid out as memory holds them (R40). -/
def decodeTableWord (nbits w : Nat) : Option Instr :=
  match decodeBytes (highByte (tableWord nbits w)) (lowByte (tableWord nbits w)) with
  | .ok i => some i
  | .error _ => none

end Sys2Proof
end

