-- ==== Sys2Proof/Config.lean ====
section
/-! DEFINITION. What is fixed for the machine (the sizes of rule R4) and what the spec leaves to a parameter
(`FONT` of R13 and the draws `rnd` of R113). A parameter is an opaque constant: nothing in Lean can find a value
of it, so a claim holds for every font and every sequence of draws. -/

namespace Sys2Proof

/-- R4: memory has 4096 bytes, addresses 0x000 to 0xFFF. -/
abbrev Config.memSize : Nat := 4096

/-- R4, R47: programs are loaded, and execution starts, at 0x200. -/
abbrev Config.loadAddr : Nat := 0x200

/-- R4: the longest program, 4096 - 512 bytes. -/
abbrev Config.maxProgram : Nat := 3584

/-- R4, R13: the font region is 0x000 to 0x04F. -/
abbrev Config.fontSize : Nat := 80

/-- `FONT` (R13, R28): byte `5 * d + r` is row `r` of the glyph of digit `d`. It is read at 0 to 79 only.
The spec leaves its 80 bytes to a parameter (92_eei_decisions.md D16): log entry 1, safe. -/
opaque Config.font : Nat → Byte

/-- `rnd` (R28, R113): `Config.rnd k` is the byte drawn by the `k`-th executed `Cxkk`, under no law
(92_eei_decisions.md D9): log entry 2, safe. -/
opaque Config.rnd : Nat → Byte

/-- Rows of `Config.defaultFont` for the digits 0 to 7 (R13's table). -/
def Config.defaultFontLow : List Byte :=
  [0xF0, 0x90, 0x90, 0x90, 0xF0] ++ [0x20, 0x60, 0x20, 0x20, 0x70] ++
  [0xF0, 0x10, 0xF0, 0x80, 0xF0] ++ [0xF0, 0x10, 0xF0, 0x10, 0xF0] ++
  [0x90, 0x90, 0xF0, 0x10, 0x10] ++ [0xF0, 0x80, 0xF0, 0x10, 0xF0] ++
  [0xF0, 0x80, 0xF0, 0x90, 0xF0] ++ [0xF0, 0x10, 0x20, 0x40, 0x40]

/-- Rows of `Config.defaultFont` for the digits 8 to F (R13's table). -/
def Config.defaultFontHigh : List Byte :=
  [0xF0, 0x90, 0xF0, 0x90, 0xF0] ++ [0xF0, 0x90, 0xF0, 0x10, 0xF0] ++
  [0xF0, 0x90, 0xF0, 0x90, 0x90] ++ [0xE0, 0x90, 0xE0, 0x90, 0xE0] ++
  [0xF0, 0x80, 0x80, 0x80, 0xF0] ++ [0xE0, 0x90, 0x90, 0x90, 0xE0] ++
  [0xF0, 0x80, 0xF0, 0x80, 0xF0] ++ [0xF0, 0x80, 0xF0, 0x80, 0x80]

/-- The default value of `FONT` that R13 prints (general knowledge, not in the source). The machine does not use
it: a claim about glyphs takes `Config.FontIsDefault` as a premise, as R13 asks. -/
def Config.defaultFont : List Byte := Config.defaultFontLow ++ Config.defaultFontHigh

/-- The premise "`FONT` is the default table of R13". -/
def Config.FontIsDefault : Prop := ∀ a < Config.fontSize, Config.defaultFont[a]? = some (Config.font a)

end Sys2Proof
end

