-- ==== Sys2Proof/Machine/State.lean ====
section
/-! DEFINITION. The state of the block, exactly the twelve items of rule R10 (10_state.md), and the machine the step
runs on, which holds the record of events and the count of draws beside the block. Reset values: R29, R180. -/

namespace Sys2Proof.Machine

/-- `FAULT` (R26, R151): no fault, or the first of the five faults that was raised. The enumeration stands for the
3-bit codes 0 to 5 (`faultCode`); the codes 6 and 7, which never occur, have no constructor. -/
inductive FaultStatus where
  /-- Code 0: no fault. -/
  | none
  /-- Code 1 (R153): `2nnn` with `SP = 16`. -/
  | stackOverflow
  /-- Code 2 (R154): `00EE` with `SP = 0`. -/
  | stackUnderflow
  /-- Code 3 (R155): a fetch with `pc0 > 0xFFE`. -/
  | fetchOutOfRange
  /-- Code 4 (R159): `Dxyn`, `Fx33`, `Fx55` or `Fx65` with an address above 0xFFF. -/
  | dataAddressOutOfRange
  /-- Code 5 (R160): `Ex9E` or `ExA1` with `V[x] > 15`. -/
  | keyIndexOutOfRange
  deriving DecidableEq, Repr

/-- The event `log_unknown(op, addr)` (R158): an opcode that matches no pattern, and where it was fetched. -/
structure LogUnknown where
  op   : Word
  addr : Word
  deriving DecidableEq, Repr

/-- `MEM` (R11) as a list of address and byte: addresses strictly rise, and no entry is equal to what an unlisted
address reads as (`memDefault`, `memWf` in Machine/Ops.lean). -/
abbrev Memory := List Host.Cell

/-- `DISP` (R23): 32 rows of 64 one-bit cells. `DISP[64 * r + c]` is bit `c` of row `r` (`cellOn`). -/
abbrev Display := Vector (BitVec 64) 32

/-- The state of the block (R10): exactly its twelve items and nothing else. -/
structure Block where
  /-- `MEM` (R11). -/
  mem   : Memory
  /-- `V` (R14), VF the flag register (R15). -/
  v     : Vector Byte 16
  /-- `I` (R16). -/
  i     : Word
  /-- `PC` (R19). -/
  pc    : Word
  /-- `STACK` (R17). -/
  stack : Vector Word 16
  /-- `SP` (R18), 0 to 16: the number of entries in use. -/
  sp    : Fin 17
  /-- `DT` (R21). -/
  dt    : Byte
  /-- `ST` (R22). -/
  st    : Byte
  /-- `DISP` (R23). -/
  disp  : Display
  /-- `DIRTY` (R24). -/
  dirty : Bool
  /-- `KEY` (R25), true = down. -/
  key   : Vector Bool 16
  /-- `FAULT` (R26). -/
  fault : FaultStatus
  deriving DecidableEq, Repr

/-- What the step runs on: the block, and beside it what is not the block's, the record of its output events and the
place reached in the sequence of its input draws. Two states whose blocks and next draws agree behave alike. -/
structure State extends Block where
  /-- Beside the block: the events emitted so far (R158), newest first. Nothing reads it (log entry 4). -/
  log   : List LogUnknown
  /-- Beside the block: how many draws of `rnd`, an input of the step (R28, R113), were consumed. It only numbers the
  next one (log entry 3). -/
  draws : Nat
  deriving DecidableEq, Repr

/-- What stops the model: nothing does, so this type is empty. Every fault of the hardware is a NEXT state with
`FAULT` set (R152), and a cycle is defined in every state (R86): log entry 7. -/
inductive Fault where
  deriving DecidableEq, Repr

/-- What the model gives no meaning. -/
inductive Refusal where
  /-- Raised by an arm of `exec` that has no meaning yet, under its mnemonic; safe. No arm raises it now. -/
  | notModelled (mnemonic : String)
  deriving DecidableEq, Repr

/-- The block right after reset (R29, R180). Memory lists nothing: every address reads as its reset contents, the
font at 0x000 to 0x04F and 0 elsewhere (R11). -/
def Block.reset : Block where
  mem   := []
  v     := Vector.replicate 16 0
  i     := 0
  pc    := 0x0200
  stack := Vector.replicate 16 0
  sp    := 0
  dt    := 0
  st    := 0
  disp  := Vector.replicate 32 0
  dirty := false
  key   := Vector.replicate 16 false
  fault := .none

/-- The machine right after reset: the block at its reset values, no event emitted and no draw consumed. -/
def State.reset : State where
  toBlock := Block.reset
  log     := []
  draws   := 0

end Sys2Proof.Machine
end

