-- ==== Sys2Proof/Machine/Ops.lean ====
section
/-! DEFINITION. The named operations over memory and registers, taking a fault and leaving it, and the parts of the
cycle (fetch, advance, unknown opcode). Every read and write of a piece of state goes through here. -/

namespace Sys2Proof.Machine

/-! Memory (20_memory.md). Addresses are plain numbers: an instruction checks its whole range first (R46). -/

/-- What an unlisted address reads as: the reset contents (R11), the font at 0x000 to 0x04F and 0 elsewhere. -/
def memDefault (a : Nat) : Byte := if a < Config.fontSize then Config.font a else 0

/-- `MEM[a]` (R7, R42). -/
def readByte : Memory → Nat → Byte
  | [], a => memDefault a
  | (b, w) :: m, a => if a = b then w else readByte m a

/-- The memory without an entry for `a`. -/
def eraseCell (a : Nat) : Memory → Memory
  | [] => []
  | (b, w) :: m => if a = b then eraseCell a m else (b, w) :: eraseCell a m

/-- The memory with an entry for `a` before the first higher address. -/
def insertCell (a : Nat) (w : Byte) : Memory → Memory
  | [] => [(a, w)]
  | (b, u) :: m => if a < b then (a, w) :: (b, u) :: m else (b, u) :: insertCell a w m

/-- `MEM[a] <- w` (R7, R42), in the canonical form: the reset contents are not listed. -/
def writeByte (m : Memory) (a : Nat) (w : Byte) : Memory :=
  if w = memDefault a then eraseCell a m else insertCell a w (eraseCell a m)

/-- `MEM[a], MEM[a + 1], ... <- ws`, byte by byte. -/
def writeBytes (m : Memory) (a : Nat) : List Byte → Memory
  | [] => m
  | w :: ws => writeBytes (writeByte m a w) (a + 1) ws

/-- `MEM[a], ..., MEM[a + n - 1]`. -/
def readBytes (m : Memory) (a : Nat) (n : Nat) : List Byte := (List.range n).map fun k => readByte m (a + k)

/-- Every entry lies at or above `lo`, in address order, below 0x1000, and differs from the reset contents. -/
def memWfFrom (lo : Nat) : Memory → Bool
  | [] => true
  | (a, w) :: m => decide (lo ≤ a) && decide (a < Config.memSize) && (w != memDefault a) && memWfFrom (a + 1) m

/-- The canonical form of a memory. -/
def memWf (m : Memory) : Bool := memWfFrom 0 m

/-! Registers. -/

/-- `V[x]` (R14): every register is readable, none is hard-wired. -/
def readV (s : State) (x : Reg) : Byte := s.v[x.val]

/-- `V[x] <- b` (R14). -/
def writeV (s : State) (x : Reg) (b : Byte) : State := { s with v := s.v.set x.val b }

/-- Every V-register at once (R125, R181). -/
def setRegs (s : State) (v : Vector Byte 16) : State := { s with v := v }

/-- VF, the flag register (R15). -/
def regVF : Reg := 15

/-- `I <- w` (R16). -/
def setI (s : State) (w : Word) : State := { s with i := w }

/-- `PC <- w` (R19). -/
def setPc (s : State) (w : Word) : State := { s with pc := w }

/-- `DT <- b` (R21). -/
def setDt (s : State) (b : Byte) : State := { s with dt := b }

/-- `ST <- b` (R22). -/
def setSt (s : State) (b : Byte) : State := { s with st := b }

/-- The memory of the state becomes `m`. -/
def setMem (s : State) (m : Memory) : State := { s with mem := m }

/-- `DISP <- d; DIRTY <- 1` (R132): the display is written by an executed `00E0` or `Dxyn`. -/
def setDisp (s : State) (d : Display) : State := { s with disp := d, dirty := true }

/-- The draw of `rnd` that the next `Cxkk` consumes (R113). -/
def currentDraw (s : State) : Byte := Config.rnd s.draws

/-- One draw is consumed: a later `Cxkk` sees another one. -/
def nextDraw (s : State) : State := { s with draws := s.draws + 1 }

/-! The call stack (R17, R18). -/

/-- `STACK[SP] <- w; SP <- SP + 1`, or `none` when all 16 entries are in use. -/
def pushReturn (s : State) (w : Word) : Option State :=
  if h : s.sp.val < 16 then
    some { s with stack := s.stack.set s.sp.val w, sp := ⟨s.sp.val + 1, by omega⟩ }
  else none

/-- `SP <- SP - 1`, with the popped address `STACK[SP]`, or `none` when the stack is empty. The entry is not cleared. -/
def popReturn (s : State) : Option (Word × State) :=
  if h : 0 < s.sp.val then
    some (s.stack[s.sp.val - 1]'(by omega), { s with sp := ⟨s.sp.val - 1, by omega⟩ })
  else none

/-! The program counter. While an instruction executes, `PC` is `pc0 + 2` (R82). -/

/-- R82: the fetch advances `PC` by 2 before dispatch. -/
def advancePc (s : State) : State := setPc s (s.pc + 2)

/-- `pc0`, the address the executing instruction was fetched from (R19), seen from the advanced state. -/
def fetchedFrom (s : State) : Word := s.pc - 2

/-- R98: a skip adds 2 to the advanced `PC` when its condition holds. -/
def skipIf (c : Bool) (s : State) : State := if c then setPc s (s.pc + 2) else s

/-! Faults (60_exceptions.md). -/

/-- The 3-bit code of `FAULT` (R151). -/
def faultCode : FaultStatus → BitVec 3
  | .none => 0
  | .stackOverflow => 1
  | .stackUnderflow => 2
  | .fetchOutOfRange => 3
  | .dataAddressOutOfRange => 4
  | .keyIndexOutOfRange => 5

/-- R152, fault entry: `FAULT <- code` and `PC = pc0`. A handler raises its fault before its first write (R85), so
every other piece of state is as it was before the cycle. Nothing is saved and control goes nowhere. -/
def takeFault (f : FaultStatus) (pc0 : Word) (s : State) : State := { s with pc := pc0, fault := f }

/-- `raise f` inside an instruction (R7): the advance of `PC` is undone (R85). -/
def raise (f : FaultStatus) (s : State) : Host.Outcome State Fault Refusal :=
  .next (takeFault f (fetchedFrom s) s)

/-- R157: there is no return-from-trap. A fault is left only by `reset` and by a successful `load_program`, which set
`FAULT <- 0` together with `PC <- 0x200` and `SP <- 0`. -/
def leaveFault (s : State) : State := { s with fault := .none, pc := BitVec.ofNat 16 Config.loadAddr, sp := 0 }

/-- R156: while `FAULT != 0` a cycle does nothing. -/
def halted (s : State) : Bool := s.fault != .none

/-! The parts of a cycle (40_fetch_dispatch.md R80). -/

/-- R45: the fetch needs `pc0` and `pc0 + 1` within 0x000 to 0xFFF. -/
def fetchInRange (s : State) : Bool := decide (s.pc.toNat ≤ 0xFFE)

/-- R81: `op = MEM[pc0] * 256 + MEM[pc0 + 1]`. -/
def fetchOpcode (s : State) : Word :=
  opcodeOfBytes (readByte s.mem s.pc.toNat) (readByte s.mem (s.pc.toNat + 1))

/-- R84, R158: an unknown opcode leaves `PC = pc0 + 2` and emits `log_unknown(op, pc0)`, nothing else. -/
def skipUnknown (op : Word) (s : State) : State :=
  { s with pc := s.pc + 2, log := ⟨op, s.pc⟩ :: s.log }

/-- R155: a fetch out of range, before any byte is read. -/
def fetchFault (s : State) : State := takeFault .fetchOutOfRange s.pc s

/-- The word `w` placed where the next fetch reads it (R40). The fetch needs `FAULT = 0` and `PC` at most 0xFFE:
where they are not so, `FAULT` is cleared and `PC` set to the load address (log entry 9). -/
def placeWord (s : State) (w : Word) : State :=
  let pc := if s.pc.toNat ≤ 0xFFE then s.pc else BitVec.ofNat 16 Config.loadAddr
  { s with pc := pc, fault := .none, mem := writeBytes s.mem pc.toNat [highByte w, lowByte w] }

end Sys2Proof.Machine
end

