-- ==== Sys2Proof/Machine/Operands.lean ====
section
/-! DEFINITION. Every operand form of the instructions: the constants of R63, the register-indirect addressing of
R126 with the range check of R46, the glyph address, decimal digits, key indices and the cells of a sprite. -/

namespace Sys2Proof.Machine

/-- `zext_16(nnn)` (R63). -/
def zextAddr (nnn : Addr) : Word := nnn.setWidth 16

/-- `zext_16(b)` of a byte. -/
def zextByte (b : Byte) : Word := b.setWidth 16

/-- R126: the address of the `k`-th byte an instruction touches, in unbounded arithmetic. -/
def dataAddr (s : State) (k : Nat) : Nat := s.i.toNat + k

/-- R46: the highest address of an access of `m + 1` bytes, `I + m`, is at most 0xFFF. -/
def dataInRange (s : State) (m : Nat) : Bool := decide (dataAddr s m ≤ 0xFFF)

/-- R46: a sprite of `n` rows reads `I` to `I + n - 1`; with `n = 0` nothing is read and nothing is checked. -/
def spriteInRange (s : State) (n : Nibble) : Bool := decide (n.toNat = 0) || dataInRange s (n.toNat - 1)

/-- R122: `5 * V[x]`, the address of the glyph of digit `V[x]`; the whole byte is multiplied. -/
def glyphAddr (b : Byte) : Word := 5 * zextByte b

/-- R123: hundreds, tens and ones of a byte, each a whole byte. -/
def bcdDigits (b : Byte) : List Byte :=
  [BitVec.ofNat 8 (b.toNat / 100), BitVec.ofNat 8 (b.toNat / 10 % 10), BitVec.ofNat 8 (b.toNat % 10)]

/-- R124: `V[0]` to `V[x]`. -/
def regsUpTo (s : State) (x : Reg) : List Byte := s.v.toList.take (x.val + 1)

/-- R125: `V` with `MEM[I + k]` in `V[k]` for `k` from 0 to `x`. -/
def regsLoaded (s : State) (x : Reg) : Vector Byte 16 :=
  Vector.ofFn fun k : Fin 16 => if k ≤ x then readByte s.mem (dataAddr s k.val) else s.v[k.val]

/-- R140: the keypad cell a register names, or `none` above 15. It is not masked. -/
def keyIndex (b : Byte) : Option (Fin 16) := if h : b.toNat < 16 then some ⟨b.toNat, h⟩ else none

/-- `KEY[k]` (R25). -/
def keyDown (s : State) (k : Fin 16) : Bool := s.key[k.val]

/-- R142: the lowest-numbered key that is down, if any is. -/
def lowestKeyDown (s : State) : Option (Fin 16) := (List.finRange 16).find? fun k => keyDown s k

/-- R131, R133: the bytes of a sprite, row 0 first. -/
def spriteBytes (s : State) (n : Nibble) : List Byte := readBytes s.mem (dataAddr s 0) n.toNat

/-- A column and a row of the display (R133). -/
abbrev CellPos := Fin 64 × Fin 32

/-- R133: where column `i` of row `j` of a sprite drawn at column `cx` and row `cy` lies, wrapped on both axes. -/
def spriteCell (cx cy i j : Nat) : CellPos :=
  (⟨(cx + i) % 64, Nat.mod_lt _ (by decide)⟩, ⟨(cy + j) % 32, Nat.mod_lt _ (by decide)⟩)

/-- R133: the cells of row `j`, byte `b`, whose sprite bit is 1; bit `7 - i` is column `i`. -/
def rowCells (cx cy j : Nat) (b : Byte) : List CellPos :=
  ((List.range 8).filter fun i => b.getLsbD (7 - i)).map fun i => spriteCell cx cy i j

/-- R131: the cells under the set bits of a sprite, from row `j` on, in the order of the rule's loops. -/
def spriteCells (cx cy j : Nat) : List Byte → List CellPos
  | [] => []
  | b :: bs => rowCells cx cy j b ++ spriteCells cx cy (j + 1) bs

end Sys2Proof.Machine
end

