-- ==== Sys2Proof/Machine/Flags.lean ====
section
/-! DEFINITION. Every flag computation of R15, and the order in which a flag and a result are written (R101). -/

namespace Sys2Proof.Machine

/-- R15: a flag in VF is the byte 0x00 or 0x01. -/
def flagByte (c : Bool) : Byte := if c then 1 else 0

/-- R108: the exact sum exceeds 255. -/
def carryOut (a b : Byte) : Bool := decide (255 < a.toNat + b.toNat)

/-- R109, R111: `a - b` needs no borrow; equality counts as no borrow. -/
def noBorrow (a b : Byte) : Bool := decide (b.toNat ≤ a.toNat)

/-- R110: bit 0, the bit a right shift moves out. -/
def lowBit (a : Byte) : Bool := a.getLsbD 0

/-- R112: bit 7, the bit a left shift moves out. -/
def highBit (a : Byte) : Bool := a.getLsbD 7

/-- R121: the exact sum `I + V[x]` exceeds 0xFFF. -/
def indexOverflow (i : Word) (a : Byte) : Bool := decide (0xFFF < i.toNat + a.toNat)

/-- `V[0xF] <- flag`. -/
def writeFlag (s : State) (c : Bool) : State := writeV s regVF (flagByte c)

/-- R101: VF is written first and the destination second, so with `x = F` VF ends holding the result. Flag and
result were both computed from the operands as they were before. -/
def writeFlagThenV (s : State) (c : Bool) (x : Reg) (r : Byte) : State := writeV (writeFlag s c) x r

end Sys2Proof.Machine
end

