-- ==== Sys2Proof/Machine/ControlFlow.lean ====
section
/-! DEFINITION. Control transfer (41_control_flow.md). In the state a meaning is given, `PC` is `pc0 + 2` (R82). -/

namespace Sys2Proof.Machine

/-- `00EE` (R90). -/
def execRet (s : State) : Host.Outcome State Fault Refusal :=
  match popReturn s with
  | some (target, t) => .next (setPc t target)
  | none => raise .stackUnderflow s

/-- `1nnn` (R91). -/
def execJpAddr (nnn : Addr) (s : State) : Host.Outcome State Fault Refusal :=
  .next (setPc s (zextAddr nnn))

/-- `2nnn` (R92): the pushed value is the advanced `PC`. -/
def execCallAddr (nnn : Addr) (s : State) : Host.Outcome State Fault Refusal :=
  match pushReturn s s.pc with
  | some t => .next (setPc t (zextAddr nnn))
  | none => raise .stackOverflow s

/-- `Bnnn` (R93). -/
def execJpV0Addr (nnn : Addr) (s : State) : Host.Outcome State Fault Refusal :=
  .next (setPc s (zextAddr nnn + zextByte (readV s 0)))

/-- `3xkk` (R94). -/
def execSeVxByte (x : Reg) (kk : Byte) (s : State) : Host.Outcome State Fault Refusal :=
  .next (skipIf (readV s x == kk) s)

/-- `4xkk` (R95). -/
def execSneVxByte (x : Reg) (kk : Byte) (s : State) : Host.Outcome State Fault Refusal :=
  .next (skipIf (readV s x != kk) s)

/-- `5xy0` (R96). -/
def execSeVxVy (x y : Reg) (s : State) : Host.Outcome State Fault Refusal :=
  .next (skipIf (readV s x == readV s y) s)

/-- `9xy0` (R97). -/
def execSneVxVy (x y : Reg) (s : State) : Host.Outcome State Fault Refusal :=
  .next (skipIf (readV s x != readV s y) s)

end Sys2Proof.Machine
end

