-- ==== Sys2Proof/Machine/DisplayUnit.lean ====
section
/-! DEFINITION. The display instructions (44_display.md), the only ones that write `DISP` and `DIRTY`. -/

namespace Sys2Proof.Machine

/-- The cell at a column and a row, `DISP[64 * r + c]` (R23, R133). -/
def cellOn (d : Display) (p : CellPos) : Bool := d[p.2.val].getLsbD p.1.val

/-- `DISP[64 * r + c] <- DISP[64 * r + c] xor 1`. -/
def flipCell (d : Display) (p : CellPos) : Display :=
  d.set p.2.val (d[p.2.val] ^^^ BitVec.twoPow 64 p.1.val)

/-- One set sprite bit (R131): a cell that was on gives a hit, and the cell is toggled. -/
def drawCell (acc : Display × Bool) (p : CellPos) : Display × Bool :=
  (flipCell acc.1 p, acc.2 || cellOn acc.1 p)

/-- R131: the display after drawing the sprite bytes `bs` at column `cx`, row `cy`, and whether any cell was hit. -/
def drawSprite (d : Display) (cx cy : Nat) (bs : List Byte) : Display × Bool :=
  (spriteCells cx cy 0 bs).foldl drawCell (d, false)

/-- `00E0` (R130): every cell 0, and `DIRTY <- 1` (R132). -/
def execCls (s : State) : Host.Outcome State Fault Refusal :=
  .next (setDisp s (Vector.replicate 32 0))

/-- `Dxyn` (R131): the coordinates and the sprite are read before any write (R101). -/
def execDrwVxVyNibble (x y : Reg) (n : Nibble) (s : State) : Host.Outcome State Fault Refusal :=
  if spriteInRange s n then
    let drawn := drawSprite s.disp (readV s x).toNat (readV s y).toNat (spriteBytes s n)
    .next (setDisp (writeFlag s drawn.2) drawn.1)
  else raise .dataAddressOutOfRange s

end Sys2Proof.Machine
end

