-- ==== Sys2Proof/Machine/IndexMemory.lean ====
section
/-! DEFINITION. The index register and memory load and store (43_index_memory.md). `I` does not advance (R126). -/

namespace Sys2Proof.Machine

/-- `Annn` (R120). -/
def execLdIAddr (nnn : Addr) (s : State) : Host.Outcome State Fault Refusal :=
  .next (setI s (zextAddr nnn))

/-- `Fx1E` (R121): the flag compares the exact sum, `I` keeps it modulo 65536. -/
def execAddIVx (x : Reg) (s : State) : Host.Outcome State Fault Refusal :=
  .next (setI (writeFlag s (indexOverflow s.i (readV s x))) (s.i + zextByte (readV s x)))

/-- `Fx29` (R122). -/
def execLdFVx (x : Reg) (s : State) : Host.Outcome State Fault Refusal :=
  .next (setI s (glyphAddr (readV s x)))

/-- Store the bytes `ws` at `I` to `I + m`, after the check of the whole range (R46). -/
def storeAtI (s : State) (m : Nat) (ws : List Byte) : Host.Outcome State Fault Refusal :=
  if dataInRange s m then .next (setMem s (writeBytes s.mem (dataAddr s 0) ws))
  else raise .dataAddressOutOfRange s

/-- `Fx33` (R123). -/
def execLdBVx (x : Reg) (s : State) : Host.Outcome State Fault Refusal :=
  storeAtI s 2 (bcdDigits (readV s x))

/-- `Fx55` (R124). -/
def execLdMemIVx (x : Reg) (s : State) : Host.Outcome State Fault Refusal :=
  storeAtI s x.val (regsUpTo s x)

/-- `Fx65` (R125). -/
def execLdVxMemI (x : Reg) (s : State) : Host.Outcome State Fault Refusal :=
  if dataInRange s x.val then .next (setRegs s (regsLoaded s x))
  else raise .dataAddressOutOfRange s

end Sys2Proof.Machine
end

