-- ==== Sys2Proof/Machine/KeypadTimers.lean ====
section
/-! DEFINITION. The keypad and timer instructions (45_keypad_timers.md). -/

namespace Sys2Proof.Machine

/-- `Ex9E` (R140): skip if the key that `V[x]` names is down. -/
def execSkpVx (x : Reg) (s : State) : Host.Outcome State Fault Refusal :=
  match keyIndex (readV s x) with
  | some k => .next (skipIf (keyDown s k) s)
  | none => raise .keyIndexOutOfRange s

/-- `ExA1` (R141): skip if the key that `V[x]` names is up. -/
def execSknpVx (x : Reg) (s : State) : Host.Outcome State Fault Refusal :=
  match keyIndex (readV s x) with
  | some k => .next (skipIf (!keyDown s k) s)
  | none => raise .keyIndexOutOfRange s

/-- `Fx07` (R143). -/
def execLdVxDt (x : Reg) (s : State) : Host.Outcome State Fault Refusal :=
  .next (writeV s x s.dt)

/-- `Fx0A` (R142): with no key down `PC` goes back to `pc0`, so that the next cycle fetches it again. -/
def execLdVxK (x : Reg) (s : State) : Host.Outcome State Fault Refusal :=
  match lowestKeyDown s with
  | some k => .next (writeV s x (BitVec.ofNat 8 k.val))
  | none => .next (setPc s (fetchedFrom s))

/-- `Fx15` (R144). -/
def execLdDtVx (x : Reg) (s : State) : Host.Outcome State Fault Refusal :=
  .next (setDt s (readV s x))

/-- `Fx18` (R145). -/
def execLdStVx (x : Reg) (s : State) : Host.Outcome State Fault Refusal :=
  .next (setSt s (readV s x))

end Sys2Proof.Machine
end

