-- ==== Sys2Proof/Machine/RegisterAlu.lean ====
section
/-! DEFINITION. Register load, arithmetic, logic, shift and random (42_register_alu.md). Byte arithmetic wraps
modulo 256 (R100). -/

namespace Sys2Proof.Machine

/-- `6xkk` (R102). -/
def execLdVxByte (x : Reg) (kk : Byte) (s : State) : Host.Outcome State Fault Refusal :=
  .next (writeV s x kk)

/-- `7xkk` (R103): no flag is touched. -/
def execAddVxByte (x : Reg) (kk : Byte) (s : State) : Host.Outcome State Fault Refusal :=
  .next (writeV s x (readV s x + kk))

/-- `8xy0` (R104). -/
def execLdVxVy (x y : Reg) (s : State) : Host.Outcome State Fault Refusal :=
  .next (writeV s x (readV s y))

/-- `8xy1` (R105): VF is not written. -/
def execOrVxVy (x y : Reg) (s : State) : Host.Outcome State Fault Refusal :=
  .next (writeV s x (readV s x ||| readV s y))

/-- `8xy2` (R106): VF is not written. -/
def execAndVxVy (x y : Reg) (s : State) : Host.Outcome State Fault Refusal :=
  .next (writeV s x (readV s x &&& readV s y))

/-- `8xy3` (R107): VF is not written. -/
def execXorVxVy (x y : Reg) (s : State) : Host.Outcome State Fault Refusal :=
  .next (writeV s x (readV s x ^^^ readV s y))

/-- `8xy4` (R108). -/
def execAddVxVy (x y : Reg) (s : State) : Host.Outcome State Fault Refusal :=
  .next (writeFlagThenV s (carryOut (readV s x) (readV s y)) x (readV s x + readV s y))

/-- `8xy5` (R109). -/
def execSubVxVy (x y : Reg) (s : State) : Host.Outcome State Fault Refusal :=
  .next (writeFlagThenV s (noBorrow (readV s x) (readV s y)) x (readV s x - readV s y))

/-- `8xy6` (R110): a logical shift of `V[x]`; `y` is ignored. -/
def execShrVx (x _y : Reg) (s : State) : Host.Outcome State Fault Refusal :=
  .next (writeFlagThenV s (lowBit (readV s x)) x (readV s x >>> 1))

/-- `8xy7` (R111). -/
def execSubnVxVy (x y : Reg) (s : State) : Host.Outcome State Fault Refusal :=
  .next (writeFlagThenV s (noBorrow (readV s y) (readV s x)) x (readV s y - readV s x))

/-- `8xyE` (R112): `y` is ignored. -/
def execShlVx (x _y : Reg) (s : State) : Host.Outcome State Fault Refusal :=
  .next (writeFlagThenV s (highBit (readV s x)) x (readV s x <<< 1))

/-- `Cxkk` (R113): one draw of `rnd` is consumed. -/
def execRndVxByte (x : Reg) (kk : Byte) (s : State) : Host.Outcome State Fault Refusal :=
  .next (nextDraw (writeV s x (currentDraw s &&& kk)))

end Sys2Proof.Machine
end

