-- ==== Sys2Proof/Machine/Step.lean ====
section
/-! DEFINITION. One step of the machine is one `cycle` operation (40_fetch_dispatch.md R80). -/

namespace Sys2Proof.Machine

/-- `cycle()` (R80): nothing while faulted (R156), the fetch check (R45), fetch and advance (R81, R82), dispatch
(R83) or the unknown-opcode path (R84). -/
def step (s : State) : Host.Outcome State Fault Refusal :=
  if halted s then .next s
  else if fetchInRange s then
    match decode (fetchOpcode s) with
    | .ok i => exec i (advancePc s)
    | .error _ => .next (skipUnknown (fetchOpcode s) s)
  else .next (fetchFault s)

/-- `s` with a table word stored where the next step fetches (log entry 9). -/
def State.withFetchWord (s : State) (nbits w : Nat) : State := placeWord s (tableWord nbits w)

end Sys2Proof.Machine
end

