-- ==== Sys2Proof/Machine/HostOps.lean ====
section
/-! DEFINITION. The host's operations other than `cycle` (60_exceptions.md R168; 70_reset_and_hazards.md R180 to
R183). They work alike whether or not `FAULT` is set (R156). -/

namespace Sys2Proof.Machine

/-- `reset` (R180), from any state: the block becomes the reset block, whatever it was. The events already emitted
and the draws already consumed are not the block's and stay (log entries 3 and 4). -/
def resetOp (s : State) : State := { s with toBlock := Block.reset }

/-- Whether a program fits: at most 3584 bytes (R181, R182). -/
def programFits (bytes : List Byte) : Bool := decide (bytes.length ≤ Config.maxProgram)

/-- `load_program` with a program that fits (R181). Memory outside the image, `KEY` and the `STACK` entries keep
their values (R183). -/
def loadImage (bytes : List Byte) (s : State) : State :=
  { leaveFault s with
    mem := writeBytes s.mem Config.loadAddr bytes, v := Vector.replicate 16 0, i := 0, dt := 0, st := 0,
    disp := Vector.replicate 32 0, dirty := true }

/-- `load_program(bytes)` (R181, R182): a program that does not fit is refused and changes nothing. The result is
true for `Ok` and false for `ProgramTooLarge`. -/
def loadProgram (bytes : List Byte) (s : State) : State × Bool :=
  if programFits bytes then (loadImage bytes s, true) else (s, false)

/-- A timer after a tick: decremented, never below zero (R165). -/
def countDown (b : Byte) : Byte := if b = 0 then 0 else b - 1

/-- `tone_due` (R166): `ST` before the decrement is exactly 1. -/
def toneDue (s : State) : Bool := s.st == 1

/-- `tick_timers()` (R165), with the tone signal it returns. -/
def tickTimers (s : State) : State × Bool := (setSt (setDt s (countDown s.dt)) (countDown s.st), toneDue s)

/-- `set_key(index, down)` (R170); the port carries 4 bits, so no other index can be expressed. -/
def setKey (k : Fin 16) (down : Bool) (s : State) : State := { s with key := s.key.set k.val down }

/-- `take_dirty()` (R171): the current `DIRTY`, which is then 0. -/
def takeDirty (s : State) : State × Bool := ({ s with dirty := false }, s.dirty)

/-- `display_buffer()` (R169): cell `64 * r + c` is column `c` of row `r`. -/
def displayBuffer (s : State) : Display := s.disp

/-- `sound_timer_value()` (R172). -/
def soundTimerValue (s : State) : Byte := s.st

/-- `delay_timer_value()` (R172). -/
def delayTimerValue (s : State) : Byte := s.dt

/-- `fault_status()` (R157): 0 to 5. -/
def faultStatus (s : State) : BitVec 3 := faultCode s.fault

end Sys2Proof.Machine
end

