-- ==== Sys2Proof/Machine/Schedule.lean ====
section
/-! DEFINITION. The operations of R168 as one type, and a run of the block under a host schedule: whole operations,
one after another (00_scope.md R8). `HOST_SCHEDULE` (R192) is the list a claim quantifies over or names. -/

namespace Sys2Proof.Machine

/-- The operations the host can invoke (R168). -/
inductive Operation where
  | reset
  | loadProgram (bytes : List Byte)
  | cycle
  | tickTimers
  | setKey (k : Fin 16) (down : Bool)
  | displayBuffer
  | takeDirty
  | soundTimerValue
  | delayTimerValue
  | faultStatus
  deriving DecidableEq, Repr

/-- What an operation returns to the host (R168). -/
inductive Reply where
  | unit
  | loaded (ok : Bool)
  | tone (due : Bool)
  | cells (d : Display)
  | dirty (b : Bool)
  | timer (b : Byte)
  | fault (code : BitVec 3)
  deriving DecidableEq, Repr

/-- One operation, with its reply (R8: one atomic transition). -/
def perform (op : Operation) (s : State) : Host.Outcome (State × Reply) Fault Refusal :=
  match op with
  | .reset => .next (resetOp s, .unit)
  | .loadProgram bytes => .next ((loadProgram bytes s).1, .loaded (loadProgram bytes s).2)
  | .cycle =>
    match step s with
    | .next t => .next (t, .unit)
    | .fault r => .fault r
    | .refused r => .refused r
  | .tickTimers => .next ((tickTimers s).1, .tone (tickTimers s).2)
  | .setKey k down => .next (setKey k down s, .unit)
  | .displayBuffer => .next (s, .cells (displayBuffer s))
  | .takeDirty => .next ((takeDirty s).1, .dirty (takeDirty s).2)
  | .soundTimerValue => .next (s, .timer (soundTimerValue s))
  | .delayTimerValue => .next (s, .timer (delayTimerValue s))
  | .faultStatus => .next (s, .fault (faultStatus s))

/-- The operations of a schedule in order, with their replies. -/
def runSchedule : List Operation → State → Host.Outcome (State × List Reply) Fault Refusal
  | [], s => .next (s, [])
  | op :: ops, s =>
    match perform op s with
    | .next (t, r) =>
      match runSchedule ops t with
      | .next (u, rs) => .next (u, r :: rs)
      | .fault f => .fault f
      | .refused f => .refused f
    | .fault f => .fault f
    | .refused f => .refused f

/-- `CYCLES_PER_TICK` (R192): `frames` times "`n` cycles, one tick". -/
def regularSchedule (n : Nat) : Nat → List Operation
  | 0 => []
  | frames + 1 => List.replicate n .cycle ++ .tickTimers :: regularSchedule n frames

end Sys2Proof.Machine
end

