-- ==== Sys2Proof/Safety.lean ====
section
/-! DEFINITION. The terms claims are stated in: what leaves a piece of state unchanged (frames), reachable states,
the invariant of R30, and what a good run and its end are. -/

namespace Sys2Proof.Machine

/-- The pieces of State, for frames: the twelve of R10 and the model's own two. -/
inductive Piece where
  | mem | v | i | pc | stack | sp | dt | st | disp | dirty | key | fault | log | draws
  deriving DecidableEq, Repr

/-- A piece is the same in both states; for memory, every byte reads as before. -/
def Unchanged (s t : State) : Piece → Prop
  | .mem => ∀ a, readByte t.mem a = readByte s.mem a
  | .v => ∀ r, readV t r = readV s r
  | .i => t.i = s.i
  | .pc => t.pc = s.pc
  | .stack => ∀ k : Fin 16, t.stack[k] = s.stack[k]
  | .sp => t.sp = s.sp
  | .dt => t.dt = s.dt
  | .st => t.st = s.st
  | .disp => ∀ p, cellOn t.disp p = cellOn s.disp p
  | .dirty => t.dirty = s.dirty
  | .key => ∀ k, keyDown t k = keyDown s k
  | .fault => t.fault = s.fault
  | .log => t.log = s.log
  | .draws => t.draws = s.draws

/-- Every piece but those listed is unchanged. -/
def OnlyChanges (ps : List Piece) (s t : State) : Prop := ∀ p, p ∉ ps → Unchanged s t p

/-- No V-register but the named ones is changed. -/
def OnlyRegs (xs : List Reg) (s t : State) : Prop := ∀ r, r ∉ xs → readV t r = readV s r

/-- An instruction raises a fault (R152), seen from the state the fetch left: `FAULT` holds the code, `PC` is back at
`pc0`, and no other piece of state changes. -/
def Raises (f : FaultStatus) (i : Instr) (s : State) : Prop :=
  ∃ t, exec i s = .next t ∧ t.fault = f ∧ t.pc + 2 = s.pc ∧ OnlyChanges [.pc, .fault] s t

/-- The word written `f` and then the address field `nnn` (R5, R62). -/
def wordNNN (f : Nat) (nnn : Addr) : Word := BitVec.ofNat 16 (0x1000 * f + nnn.toNat)

/-- The word written with the digits `f`, `x` and the byte `kk` (R5, R62). -/
def wordXKK (f : Nat) (x : Reg) (kk : Nat) : Word := BitVec.ofNat 16 (0x1000 * f + 0x100 * x.val + kk)

/-- The word written with the digits `f`, `x`, `y`, `n` (R5, R62). -/
def wordXYN (f : Nat) (x y : Reg) (n : Nat) : Word :=
  BitVec.ofNat 16 (0x1000 * f + 0x100 * x.val + 0x10 * y.val + n)

/-- A set bit of the sprite lies on the cell (R133): bit `7 - i` of byte `j` is drawn on column `V[x] + i` and row
`V[y] + j`, wrapped. -/
def SpriteCovers (s : State) (x y : Reg) (n : Nibble) (p : CellPos) : Prop :=
  ∃ j < n.toNat, ∃ i < 8, (readByte s.mem (dataAddr s j)).getLsbD (7 - i) = true ∧
    p.1.val = ((readV s x).toNat + i) % 64 ∧ p.2.val = ((readV s y).toNat + j) % 32

/-- The table of reset values (R29, R180), piece by piece. -/
structure IsReset (s : State) : Prop where
  font  : ∀ a < 80, readByte s.mem a = Config.font a
  zero  : ∀ a, 80 ≤ a → readByte s.mem a = 0
  v     : ∀ r, readV s r = 0
  i     : s.i = 0
  pc    : s.pc.toNat = 0x200
  stack : ∀ k : Fin 16, s.stack[k] = 0
  sp    : s.sp.val = 0
  dt    : s.dt = 0
  st    : s.st = 0
  disp  : ∀ p, cellOn s.disp p = false
  dirty : s.dirty = false
  key   : ∀ k, keyDown s k = false
  fault : faultCode s.fault = 0

/-- R30 for `PC`: at most 0x10FE. -/
def PcInRange (s : State) : Prop := s.pc.toNat ≤ 0x10FE

/-- R30 for `STACK`: every entry in use is at most 0x1000. -/
def StackInRange (s : State) : Prop := ∀ k : Fin 16, k.val < s.sp.val → s.stack[k].toNat ≤ 0x1000

/-- The invariant of the machine: memory is in its canonical form, and the ranges of R30 that the types of State do
not already give (`SP`, `FAULT`, and the cells of `DISP` and `KEY` are in range by type). -/
structure Inv (s : State) : Prop where
  mem   : memWf s.mem = true
  pc    : PcInRange s
  stack : StackInRange s

/-- A reachable state: the result of `reset` followed by host operations (R180). -/
inductive Reachable : State → Prop where
  | reset : Reachable State.reset
  | perform {s t : State} {r : Reply} (op : Operation) :
      Reachable s → Machine.perform op s = .next (t, r) → Reachable t

/-- A run is good so far when no fault is recorded (92_eei_decisions.md D2: every claim takes `FAULT = 0` as part of
success). -/
def NoFault (s : State) : Prop := s.fault = .none

/-- No `log_unknown` event was emitted on the way from `s` to `t` (93_implementation_defined.md U1). -/
def NoUnknownBetween (s t : State) : Prop := t.log = s.log

/-- The end of a run that R186 offers: the instruction at `PC` is `1nnn` with `nnn = PC`. `END_OF_RUN` itself is a
predicate each claim chooses. A faulted state is no end. -/
def atSelfJump (s : State) : Bool :=
  !halted s && fetchInRange s &&
    match decode (fetchOpcode s) with
    | .ok (.jpAddr nnn) => zextAddr nnn == s.pc
    | _ => false

end Sys2Proof.Machine
end

