-- ==== Sys2Proof/Certificates/Slice0/Obligations.lean ====
section
/-! DEFINITION. The statements for the provers. A statement about `exec` is about the state the fetch left, in which
`PC` is `pc0 + 2` (R82); `StepRunsTheDecodedInstruction` carries it to a cycle. Where a docstring says "the spec's
own decision D<n>", the rule rests on that row of 92_eei_decisions.md and not on the source. -/

open Sys2Proof Sys2Proof.Machine

/-! Control transfer. -/

/-- R94 to R97: the four register skips. Each is decoded from its pattern, completes in every state, adds 2 to the
advanced `PC` exactly when its condition holds, and changes nothing else. -/
def Obligations.RegisterSkipsAddTwoWhenTrue : Prop :=
  ∀ (x y : Reg) (kk : Byte) (s : State),
    (decode (wordXKK 3 x kk.toNat) = .ok (.seVxByte x kk) ∧
      ∃ t, exec (.seVxByte x kk) s = .next t ∧ OnlyChanges [.pc] s t ∧
        t.pc.toNat = (s.pc.toNat + if readV s x = kk then 2 else 0) % 65536) ∧
    (decode (wordXKK 4 x kk.toNat) = .ok (.sneVxByte x kk) ∧
      ∃ t, exec (.sneVxByte x kk) s = .next t ∧ OnlyChanges [.pc] s t ∧
        t.pc.toNat = (s.pc.toNat + if readV s x = kk then 0 else 2) % 65536) ∧
    (decode (wordXYN 5 x y 0) = .ok (.seVxVy x y) ∧
      ∃ t, exec (.seVxVy x y) s = .next t ∧ OnlyChanges [.pc] s t ∧
        t.pc.toNat = (s.pc.toNat + if readV s x = readV s y then 2 else 0) % 65536) ∧
    (decode (wordXYN 9 x y 0) = .ok (.sneVxVy x y) ∧
      ∃ t, exec (.sneVxVy x y) s = .next t ∧ OnlyChanges [.pc] s t ∧
        t.pc.toNat = (s.pc.toNat + if readV s x = readV s y then 0 else 2) % 65536)

/-- R91, R93: the jumps. `1nnn` sets `PC` to `nnn`; `Bnnn` sets it to the exact sum `nnn + V0`, not reduced. -/
def Obligations.JumpsSetThePc : Prop :=
  ∀ (nnn : Addr) (s : State),
    (decode (wordNNN 1 nnn) = .ok (.jpAddr nnn) ∧
      ∃ t, exec (.jpAddr nnn) s = .next t ∧ OnlyChanges [.pc] s t ∧ t.pc.toNat = nnn.toNat) ∧
    (decode (wordNNN 0xB nnn) = .ok (.jpV0Addr nnn) ∧
      ∃ t, exec (.jpV0Addr nnn) s = .next t ∧ OnlyChanges [.pc] s t ∧
        t.pc.toNat = nnn.toNat + (readV s 0).toNat)

/-- R92, R153: `2nnn` with room pushes the advanced `PC` on entry `SP`, leaves every other entry, counts it and jumps;
with 16 entries in use it raises `StackOverflow` (code 1) and has no effect. -/
def Obligations.CallPushesOrOverflows : Prop :=
  ∀ (nnn : Addr) (s : State),
    decode (wordNNN 2 nnn) = .ok (.callAddr nnn) ∧
    (s.sp.val < 16 → ∃ t, exec (.callAddr nnn) s = .next t ∧ OnlyChanges [.stack, .sp, .pc] s t ∧
      (∀ k : Fin 16, t.stack[k] = if k.val = s.sp.val then s.pc else s.stack[k]) ∧
      t.sp.val = s.sp.val + 1 ∧ t.pc.toNat = nnn.toNat) ∧
    (s.sp.val = 16 → Raises .stackOverflow (.callAddr nnn) s ∧ faultCode .stackOverflow = 1)

/-- R90, R154: `00EE` with an open call takes it off and puts its return address in `PC`, without clearing the entry;
with none open it raises `StackUnderflow` (code 2) and has no effect. -/
def Obligations.ReturnPopsOrUnderflows : Prop :=
  ∀ (s : State),
    decode 0x00EE = .ok .ret ∧
    (∀ k : Fin 16, s.sp.val = k.val + 1 → ∃ t, exec .ret s = .next t ∧ OnlyChanges [.sp, .pc] s t ∧
      t.sp.val = k.val ∧ t.pc = s.stack[k]) ∧
    (s.sp.val = 0 → Raises .stackUnderflow .ret s ∧ faultCode .stackUnderflow = 2)

/-- A call and the return that follows it, from R90 and R92: the return goes to the instruction after the call, the
stack pointer is as it was, and nothing but `STACK` differs from before the call. -/
def Obligations.ReturnUndoesCall : Prop :=
  ∀ (nnn : Addr) (s : State), s.sp.val < 16 →
    ∃ t u, exec (.callAddr nnn) s = .next t ∧ exec .ret (advancePc t) = .next u ∧ OnlyChanges [.stack] s u

/-! Registers. -/

/-- R102, R104: a constant or a register is copied to `V[x]`, and nothing else changes. -/
def Obligations.RegisterLoadsCopy : Prop :=
  ∀ (x y : Reg) (kk : Byte) (s : State),
    (decode (wordXKK 6 x kk.toNat) = .ok (.ldVxByte x kk) ∧
      ∃ t, exec (.ldVxByte x kk) s = .next t ∧ OnlyChanges [.v] s t ∧ OnlyRegs [x] s t ∧ readV t x = kk) ∧
    (decode (wordXYN 8 x y 0) = .ok (.ldVxVy x y) ∧
      ∃ t, exec (.ldVxVy x y) s = .next t ∧ OnlyChanges [.v] s t ∧ OnlyRegs [x] s t ∧ readV t x = readV s y)

/-- R103: `7xkk` adds modulo 256 and touches no flag register. -/
def Obligations.AddConstantWrapsWithoutFlag : Prop :=
  ∀ (x : Reg) (kk : Byte) (s : State),
    decode (wordXKK 7 x kk.toNat) = .ok (.addVxByte x kk) ∧
    ∃ t, exec (.addVxByte x kk) s = .next t ∧ OnlyChanges [.v] s t ∧ OnlyRegs [x] s t ∧
      (readV t x).toNat = ((readV s x).toNat + kk.toNat) % 256

/-- R105 to R107: the bitwise operations, bit by bit; VF is not written unless it is `V[x]`. -/
def Obligations.LogicActsBitwiseWithoutFlag : Prop :=
  ∀ (x y : Reg) (s : State),
    (decode (wordXYN 8 x y 1) = .ok (.orVxVy x y) ∧
      ∃ t, exec (.orVxVy x y) s = .next t ∧ OnlyChanges [.v] s t ∧ OnlyRegs [x] s t ∧
        ∀ b < 8, (readV t x).getLsbD b = ((readV s x).getLsbD b || (readV s y).getLsbD b)) ∧
    (decode (wordXYN 8 x y 2) = .ok (.andVxVy x y) ∧
      ∃ t, exec (.andVxVy x y) s = .next t ∧ OnlyChanges [.v] s t ∧ OnlyRegs [x] s t ∧
        ∀ b < 8, (readV t x).getLsbD b = ((readV s x).getLsbD b && (readV s y).getLsbD b)) ∧
    (decode (wordXYN 8 x y 3) = .ok (.xorVxVy x y) ∧
      ∃ t, exec (.xorVxVy x y) s = .next t ∧ OnlyChanges [.v] s t ∧ OnlyRegs [x] s t ∧
        ∀ b < 8, (readV t x).getLsbD b = ((readV s x).getLsbD b != (readV s y).getLsbD b))

/-- R108: `8xy4` stores the sum modulo 256 and its carry in VF; with `x = F` the sum wins. -/
def Obligations.AddStoresSumAndCarry : Prop :=
  ∀ (x y : Reg) (s : State),
    decode (wordXYN 8 x y 4) = .ok (.addVxVy x y) ∧
    ∃ t, exec (.addVxVy x y) s = .next t ∧ OnlyChanges [.v] s t ∧ OnlyRegs [x, 15] s t ∧
      (readV t x).toNat = ((readV s x).toNat + (readV s y).toNat) % 256 ∧
      (x ≠ 15 → readV t 15 = if 255 < (readV s x).toNat + (readV s y).toNat then 1 else 0)

/-- R109, R111: the two subtractions store the difference modulo 256 and "no borrow" in VF; with `x = F` the
difference wins. -/
def Obligations.SubtractStoresDifferenceAndNoBorrow : Prop :=
  ∀ (x y : Reg) (s : State),
    (decode (wordXYN 8 x y 5) = .ok (.subVxVy x y) ∧
      ∃ t, exec (.subVxVy x y) s = .next t ∧ OnlyChanges [.v] s t ∧ OnlyRegs [x, 15] s t ∧
        ((readV t x).toNat : Int) = ((readV s x).toNat - (readV s y).toNat : Int) % 256 ∧
        (x ≠ 15 → readV t 15 = if (readV s y).toNat ≤ (readV s x).toNat then 1 else 0)) ∧
    (decode (wordXYN 8 x y 7) = .ok (.subnVxVy x y) ∧
      ∃ t, exec (.subnVxVy x y) s = .next t ∧ OnlyChanges [.v] s t ∧ OnlyRegs [x, 15] s t ∧
        ((readV t x).toNat : Int) = ((readV s y).toNat - (readV s x).toNat : Int) % 256 ∧
        (x ≠ 15 → readV t 15 = if (readV s x).toNat ≤ (readV s y).toNat then 1 else 0))

/-- R110, R112: the shifts move `V[x]` by one bit and put the bit that leaves in VF; with `x = F` the shifted value
wins. The field `y` has no influence. -/
def Obligations.ShiftsMoveOneBitIntoFlag : Prop :=
  ∀ (x y y' : Reg) (s : State),
    (decode (wordXYN 8 x y 6) = .ok (.shrVx x y) ∧ exec (.shrVx x y) s = exec (.shrVx x y') s ∧
      ∃ t, exec (.shrVx x y) s = .next t ∧ OnlyChanges [.v] s t ∧ OnlyRegs [x, 15] s t ∧
        (readV t x).toNat = (readV s x).toNat / 2 ∧
        (x ≠ 15 → (readV t 15).toNat = (readV s x).toNat % 2)) ∧
    (decode (wordXYN 8 x y 0xE) = .ok (.shlVx x y) ∧ exec (.shlVx x y) s = exec (.shlVx x y') s ∧
      ∃ t, exec (.shlVx x y) s = .next t ∧ OnlyChanges [.v] s t ∧ OnlyRegs [x, 15] s t ∧
        (readV t x).toNat = (readV s x).toNat * 2 % 256 ∧
        (x ≠ 15 → (readV t 15).toNat = (readV s x).toNat / 128))

/-- `Cxkk` (R113, the spec's own decision D9; log entries 2 and 3): `V[x]` takes the current draw masked by `kk`, the
draw is consumed, and nothing else changes. The draw is a free value: a bit that is 0 in `kk` is 0, the others are
those of the draw. -/
def Obligations.RandomMasksOneDraw : Prop :=
  ∀ (x : Reg) (kk : Byte) (s : State),
    decode (wordXKK 0xC x kk.toNat) = .ok (.rndVxByte x kk) ∧
    ∃ t, exec (.rndVxByte x kk) s = .next t ∧ OnlyChanges [.v, .draws] s t ∧ OnlyRegs [x] s t ∧
      t.draws = s.draws + 1 ∧
      ∀ b < 8, (readV t x).getLsbD b = ((Config.rnd s.draws).getLsbD b && kk.getLsbD b)

/-! The index register and memory. -/

/-- R120: `Annn` loads `I` with `nnn`, its top four bits 0. -/
def Obligations.LoadIndexZeroExtends : Prop :=
  ∀ (nnn : Addr) (s : State),
    decode (wordNNN 0xA nnn) = .ok (.ldIAddr nnn) ∧
    ∃ t, exec (.ldIAddr nnn) s = .next t ∧ OnlyChanges [.i] s t ∧ t.i.toNat = nnn.toNat

/-- `Fx1E` (R121, the spec's own decision D7): `I` takes the sum modulo 65536, VF whether the exact sum is above
0xFFF, also when `x = F`. -/
def Obligations.AddIndexFlagsTheExactSum : Prop :=
  ∀ (x : Reg) (s : State),
    decode (wordXKK 0xF x 0x1E) = .ok (.addIVx x) ∧
    ∃ t, exec (.addIVx x) s = .next t ∧ OnlyChanges [.v, .i] s t ∧ OnlyRegs [15] s t ∧
      t.i.toNat = (s.i.toNat + (readV s x).toNat) % 65536 ∧
      readV t 15 = if 0xFFF < s.i.toNat + (readV s x).toNat then 1 else 0

/-- `Fx29` (R122, the spec's own decision D25): `I` takes five times the whole byte. -/
def Obligations.GlyphAddressIsFiveTimesTheByte : Prop :=
  ∀ (x : Reg) (s : State),
    decode (wordXKK 0xF x 0x29) = .ok (.ldFVx x) ∧
    ∃ t, exec (.ldFVx x) s = .next t ∧ OnlyChanges [.i] s t ∧ t.i.toNat = 5 * (readV s x).toNat

/-- R123: `Fx33` stores hundreds, tens and ones at `I`, `I + 1`, `I + 2` and no other byte; when `I + 2` is above
0xFFF it raises `DataAddressOutOfRange` and writes nothing. -/
def Obligations.BcdStoresThreeDigits : Prop :=
  ∀ (x : Reg) (s : State),
    decode (wordXKK 0xF x 0x33) = .ok (.ldBVx x) ∧
    (dataAddr s 2 ≤ 0xFFF → ∃ t, exec (.ldBVx x) s = .next t ∧ OnlyChanges [.mem] s t ∧
      (readByte t.mem (dataAddr s 0)).toNat = (readV s x).toNat / 100 ∧
      (readByte t.mem (dataAddr s 1)).toNat = (readV s x).toNat / 10 % 10 ∧
      (readByte t.mem (dataAddr s 2)).toNat = (readV s x).toNat % 10 ∧
      ∀ a, a < dataAddr s 0 ∨ dataAddr s 2 < a → readByte t.mem a = readByte s.mem a) ∧
    (0xFFF < dataAddr s 2 → Raises .dataAddressOutOfRange (.ldBVx x) s)

/-- R124: `Fx55` stores `V[0]` to `V[x]` at `I` to `I + x` and no other byte, and leaves `I`; when `I + x` is above
0xFFF it raises `DataAddressOutOfRange` and writes nothing. -/
def Obligations.BlockStoreCopiesRegisters : Prop :=
  ∀ (x : Reg) (s : State),
    decode (wordXKK 0xF x 0x55) = .ok (.ldMemIVx x) ∧
    (dataAddr s x.val ≤ 0xFFF → ∃ t, exec (.ldMemIVx x) s = .next t ∧ OnlyChanges [.mem] s t ∧
      (∀ k : Reg, k ≤ x → readByte t.mem (dataAddr s k.val) = readV s k) ∧
      ∀ a, a < dataAddr s 0 ∨ dataAddr s x.val < a → readByte t.mem a = readByte s.mem a) ∧
    (0xFFF < dataAddr s x.val → Raises .dataAddressOutOfRange (.ldMemIVx x) s)

/-- R125: `Fx65` loads `V[0]` to `V[x]` from `I` to `I + x` and no other register, and leaves `I`; when `I + x` is
above 0xFFF it raises `DataAddressOutOfRange` and loads nothing. -/
def Obligations.BlockLoadCopiesMemory : Prop :=
  ∀ (x : Reg) (s : State),
    decode (wordXKK 0xF x 0x65) = .ok (.ldVxMemI x) ∧
    (dataAddr s x.val ≤ 0xFFF → ∃ t, exec (.ldVxMemI x) s = .next t ∧ OnlyChanges [.v] s t ∧
      ∀ k : Reg, readV t k = if k ≤ x then readByte s.mem (dataAddr s k.val) else readV s k) ∧
    (0xFFF < dataAddr s x.val → Raises .dataAddressOutOfRange (.ldVxMemI x) s)

/-- The source's round trip (95_test_vectors.md S8): after `Fx55`, a later `Fx65` with the same `I` and `x` over
memory that still reads the same brings `V[0]` to `V[x]` back, whatever the registers hold in between. -/
def Obligations.BlockStoreThenLoadRestores : Prop :=
  ∀ (x : Reg) (s t u : State), dataAddr s x.val ≤ 0xFFF → exec (.ldMemIVx x) s = .next t →
    Unchanged t u .mem → u.i = s.i →
    ∃ w, exec (.ldVxMemI x) u = .next w ∧ ∀ k : Reg, k ≤ x → readV w k = readV s k

/-- R54: bytes stored by `Fx55` are what a later fetch at their address reads, with nothing in between needed. -/
def Obligations.StoredBytesAreFetched : Prop :=
  ∀ (x k k' : Reg) (s t u : State), dataAddr s x.val ≤ 0xFFF → exec (.ldMemIVx x) s = .next t →
    k' ≤ x → k'.val = k.val + 1 → Unchanged t u .mem → u.pc.toNat = dataAddr s k.val →
    (fetchOpcode u).toNat = 256 * (readV s k).toNat + (readV s k').toNat

/-! The display. -/

/-- R130: `00E0` turns every cell off and sets `DIRTY`, whatever they were. -/
def Obligations.ClearTurnsEveryCellOff : Prop :=
  ∀ (s : State), decode 0x00E0 = .ok .cls ∧
    ∃ t, exec .cls s = .next t ∧ OnlyChanges [.disp, .dirty] s t ∧ t.dirty = true ∧
      ∀ p, cellOn t.disp p = false

/-- `Dxyn` (R131 and R133, the spec's own decisions D17, D14, D26): every cell under a set sprite bit is inverted and
no other, with wraparound on both axes; VF is 1 exactly when one of them was on; `DIRTY` is set. `n = 0` draws
nothing and needs no address. -/
def Obligations.DrawInvertsTheCoveredCells : Prop :=
  ∀ (x y : Reg) (n : Nibble) (s : State),
    decode (wordXYN 0xD x y n.toNat) = .ok (.drwVxVyNibble x y n) ∧
    ((∀ j < n.toNat, dataAddr s j ≤ 0xFFF) →
      ∃ t, exec (.drwVxVyNibble x y n) s = .next t ∧ OnlyChanges [.v, .disp, .dirty] s t ∧
        OnlyRegs [15] s t ∧ t.dirty = true ∧
        (∀ p, SpriteCovers s x y n p → cellOn t.disp p = !cellOn s.disp p) ∧
        (∀ p, ¬ SpriteCovers s x y n p → cellOn t.disp p = cellOn s.disp p) ∧
        ((∃ p, SpriteCovers s x y n p ∧ cellOn s.disp p = true) → readV t 15 = 1) ∧
        ((¬ ∃ p, SpriteCovers s x y n p ∧ cellOn s.disp p = true) → readV t 15 = 0))

/-- `Dxyn` out of range (R46, R131, the spec's own decision D4): with `n` at least 1 and `I + n - 1` above 0xFFF it
raises `DataAddressOutOfRange` and draws nothing. -/
def Obligations.DrawOutOfRangeFaults : Prop :=
  ∀ (x y : Reg) (n : Nibble) (s : State), 1 ≤ n.toNat → 0xFFF < dataAddr s (n.toNat - 1) →
    Raises .dataAddressOutOfRange (.drwVxVyNibble x y n) s

/-- The source's draw property (95_test_vectors.md S6, read as 90_conflicts.md C15 reads it): drawing a sprite twice
at the same place brings every cell back, and the second draw reports a hit exactly when the sprite has a set bit.
The coordinates are read from registers other than VF, which the first draw writes. -/
def Obligations.DrawingTwiceRestoresTheDisplay : Prop :=
  ∀ (x y : Reg) (n : Nibble) (s : State), x ≠ 15 → y ≠ 15 → (∀ j < n.toNat, dataAddr s j ≤ 0xFFF) →
    (∀ p, cellOn s.disp p = false) →
    ∃ t u, exec (.drwVxVyNibble x y n) s = .next t ∧ exec (.drwVxVyNibble x y n) (advancePc t) = .next u ∧
      readV t 15 = 0 ∧ (∀ p, cellOn u.disp p = false) ∧
      (readV u 15 = 1 ↔ ∃ j < n.toNat, readByte s.mem (dataAddr s j) ≠ 0)

/-! The keypad and the timers. -/

/-- `Ex9E` and `ExA1` (R140 and R141, the spec's own decision D5): with `V[x]` at most 15 they skip when that key is
down, or up; with `V[x]` above 15 they raise `KeyIndexOutOfRange` and nothing is masked. -/
def Obligations.KeySkipsReadTheNamedKey : Prop :=
  ∀ (x : Reg) (s : State),
    decode (wordXKK 0xE x 0x9E) = .ok (.skpVx x) ∧ decode (wordXKK 0xE x 0xA1) = .ok (.sknpVx x) ∧
    (∀ k : Fin 16, (readV s x).toNat = k.val →
      (∃ t, exec (.skpVx x) s = .next t ∧ OnlyChanges [.pc] s t ∧
        t.pc.toNat = (s.pc.toNat + if keyDown s k then 2 else 0) % 65536) ∧
      (∃ t, exec (.sknpVx x) s = .next t ∧ OnlyChanges [.pc] s t ∧
        t.pc.toNat = (s.pc.toNat + if keyDown s k then 0 else 2) % 65536)) ∧
    (15 < (readV s x).toNat →
      Raises .keyIndexOutOfRange (.skpVx x) s ∧ Raises .keyIndexOutOfRange (.sknpVx x) s)

/-- R142: with a key down `Fx0A` puts the lowest pressed key in `V[x]` and goes on; with none down it goes back to
`pc0` and changes nothing else. -/
def Obligations.WaitForKeyTakesTheLowest : Prop :=
  ∀ (x : Reg) (s : State),
    decode (wordXKK 0xF x 0x0A) = .ok (.ldVxK x) ∧
    (∀ k : Fin 16, keyDown s k = true → (∀ j < k, keyDown s j = false) →
      ∃ t, exec (.ldVxK x) s = .next t ∧ OnlyChanges [.v] s t ∧ OnlyRegs [x] s t ∧
        (readV t x).toNat = k.val) ∧
    ((∀ k, keyDown s k = false) →
      ∃ t, exec (.ldVxK x) s = .next t ∧ OnlyChanges [.pc] s t ∧ t.pc + 2 = s.pc)

/-- R143 to R145: `Fx07` reads the delay timer, `Fx15` and `Fx18` write the delay and the sound timer; nothing else
changes. -/
def Obligations.TimerInstructionsCopy : Prop :=
  ∀ (x : Reg) (s : State),
    (decode (wordXKK 0xF x 0x07) = .ok (.ldVxDt x) ∧
      ∃ t, exec (.ldVxDt x) s = .next t ∧ OnlyChanges [.v] s t ∧ OnlyRegs [x] s t ∧ readV t x = s.dt) ∧
    (decode (wordXKK 0xF x 0x15) = .ok (.ldDtVx x) ∧
      ∃ t, exec (.ldDtVx x) s = .next t ∧ OnlyChanges [.dt] s t ∧ t.dt = readV s x) ∧
    (decode (wordXKK 0xF x 0x18) = .ok (.ldStVx x) ∧
      ∃ t, exec (.ldStVx x) s = .next t ∧ OnlyChanges [.st] s t ∧ t.st = readV s x)

/-! Encoding. -/

/-- Every instruction, with every operand at every value, is read back by the decoder from the two bytes the encoder
writes (R60, R64, R65). -/
def Obligations.DecodeInvertsEncode : Prop :=
  ∀ i : Instr, decodeBytes (highByte (encode i)) (lowByte (encode i)) = .ok i

/-- A word that decodes is the encoding of what it decodes to: the decoder drops no bit (R62, R65). -/
def Obligations.EncodeInvertsDecode : Prop :=
  ∀ (w : Word) (i : Instr), decode w = .ok i → encode i = w

/-- R65, R66 (the strictness is the spec's own decision D8): the decoder and the opcode map agree on every word. A
row's word decodes to an instruction of that row, and a word that matches no row is rejected. -/
def Obligations.DecoderAgreesWithTheOpcodeMap : Prop :=
  ∀ w : Word,
    (∀ r ∈ opcodeRows, r.covers w = true → ∃ i, decode w = .ok i ∧ i.row = r) ∧
    (wordWellFormed w = false → ∃ e, decode w = .error e)

/-- R65: the opcode map has 34 rows and no two of them overlap. -/
def Obligations.OpcodeRowsDoNotOverlap : Prop :=
  opcodeRows.length = 34 ∧
    opcodeRows.Pairwise fun a b => ∀ w, ¬ (a.covers w = true ∧ b.covers w = true)

/-- A few words, spelt from the patterns of R65, and one unknown word of each family that has any (R67). -/
def Obligations.SampleWordsDecode : Prop :=
  decode 0x6A37 = .ok (.ldVxByte 0xA 0x37) ∧ decode 0xB3F0 = .ok (.jpV0Addr 0x3F0) ∧
  decode 0x8F17 = .ok (.subnVxVy 0xF 1) ∧ decode 0xD12F = .ok (.drwVxVyNibble 1 2 0xF) ∧
  decode 0xE19E = .ok (.skpVx 1) ∧ decode 0xF265 = .ok (.ldVxMemI 2) ∧
  decode 0x0000 = .error .family0 ∧ decode 0x5341 = .error .family5 ∧ decode 0x800F = .error .family8 ∧
  decode 0x934F = .error .family9 ∧ decode 0xE09F = .error .familyE ∧ decode 0xF075 = .error .familyF

/-! The cycle. -/

/-- R81, R82: with no fault recorded and `PC` in range, when the two bytes at `PC`, the lower address first, decode to
an instruction, the step is that instruction's `exec` on the state with `PC` advanced by 2. -/
def Obligations.StepRunsTheDecodedInstruction : Prop :=
  ∀ (s : State) (i : Instr), s.fault = .none → s.pc.toNat ≤ 0xFFE →
    decode (BitVec.ofNat 16 (readByte s.mem s.pc.toNat).toNat * 256 +
      BitVec.ofNat 16 (readByte s.mem (s.pc.toNat + 1)).toNat) = .ok i →
    step s = exec i (setPc s (s.pc + 2))

/-- R84: a fetched word that matches no pattern moves `PC` past it, emits one `log_unknown(op, pc0)`, and changes
nothing else. -/
def Obligations.UnknownOpcodeIsLoggedAndSkipped : Prop :=
  ∀ s : State, s.fault = .none → s.pc.toNat ≤ 0xFFE → (∀ r ∈ opcodeRows, r.covers (fetchOpcode s) = false) →
    ∃ t, step s = .next t ∧ OnlyChanges [.pc, .log] s t ∧ t.pc.toNat = s.pc.toNat + 2 ∧
      t.log = ⟨fetchOpcode s, s.pc⟩ :: s.log

/-- A fetch with `pc0` above 0xFFE (R45 and R155, the spec's own decision D4) records `FetchOutOfRange`, code 3, and
changes nothing else. -/
def Obligations.FetchOutOfRangeFaults : Prop :=
  ∀ s : State, s.fault = .none → 0xFFE < s.pc.toNat →
    ∃ t, step s = .next t ∧ OnlyChanges [.fault] s t ∧ faultCode t.fault = 3

/-- While a fault is recorded a cycle does nothing at all (R156, the spec's own decision D2). -/
def Obligations.FaultedCycleDoesNothing : Prop :=
  ∀ s : State, faultCode s.fault ≠ 0 → step s = .next s

/-- A fault is precise (R85 and R152, the spec's own decision D2): a cycle that records a fault leaves every other
piece of state, `PC` included, as it was. -/
def Obligations.FaultsArePrecise : Prop :=
  ∀ s t : State, step s = .next t → t.fault ≠ s.fault → s.fault = .none ∧ OnlyChanges [.fault] s t

/-- When each fault is raised (R151 and R163, the spec's own decisions D2 to D5): a cycle from a state with no fault
records each code exactly under the condition of its row, and no other cycle does. -/
def Obligations.FaultsHaveTheirStatedCauses : Prop :=
  ∀ s t : State, s.fault = .none → step s = .next t →
    (faultCode t.fault = 3 ↔ 0xFFE < s.pc.toNat) ∧
    (faultCode t.fault = 1 ↔
      s.pc.toNat ≤ 0xFFE ∧ s.sp.val = 16 ∧ ∃ nnn, decode (fetchOpcode s) = .ok (.callAddr nnn)) ∧
    (faultCode t.fault = 2 ↔
      s.pc.toNat ≤ 0xFFE ∧ s.sp.val = 0 ∧ decode (fetchOpcode s) = .ok .ret) ∧
    (faultCode t.fault = 4 ↔ s.pc.toNat ≤ 0xFFE ∧
      ((∃ x y n, decode (fetchOpcode s) = .ok (.drwVxVyNibble x y n) ∧ 1 ≤ n.toNat ∧
          0xFFF < s.i.toNat + n.toNat - 1) ∨
        (∃ x, decode (fetchOpcode s) = .ok (.ldBVx x) ∧ 0xFFF < s.i.toNat + 2) ∨
        (∃ x, decode (fetchOpcode s) = .ok (.ldMemIVx x) ∧ 0xFFF < s.i.toNat + x.val) ∨
        (∃ x, decode (fetchOpcode s) = .ok (.ldVxMemI x) ∧ 0xFFF < s.i.toNat + x.val))) ∧
    (faultCode t.fault = 5 ↔ s.pc.toNat ≤ 0xFFE ∧
      ∃ x, (decode (fetchOpcode s) = .ok (.skpVx x) ∨ decode (fetchOpcode s) = .ok (.sknpVx x)) ∧
        15 < (readV s x).toNat)

/-- R86: a cycle is defined in every state, reachable or not, and emits at most one event. -/
def Obligations.EveryCycleCompletes : Prop :=
  ∀ s : State, ∃ t, step s = .next t ∧ (t.log = s.log ∨ ∃ e, t.log = e :: s.log)

/-- Two fixed points of the cycle (R86, R142): a jump to its own address, and a wait for a key with none down, leave
the whole state unchanged. -/
def Obligations.SelfJumpAndWaitAreFixedPoints : Prop :=
  ∀ s : State, s.fault = .none → s.pc.toNat ≤ 0xFFE →
    (∀ nnn : Addr, decode (fetchOpcode s) = .ok (.jpAddr nnn) → nnn.toNat = s.pc.toNat → step s = .next s) ∧
    (∀ x : Reg, decode (fetchOpcode s) = .ok (.ldVxK x) → (∀ k, keyDown s k = false) → step s = .next s)

/-- Who writes what (R31, with R15 for VF and R19 for `PC`): each piece of state is changed by the instructions the
access table names and by no other; `KEY` and the log by none. A V-register is changed as the destination, as part of
a loaded block, or, VF only, by a flag writer. `PC` is what the fetch left, unless the instruction transfers control,
skips, waits, or can raise a fault. -/
def Obligations.OnlyTheNamedInstructionsWrite : Prop :=
  ∀ (i : Instr) (s t : State), exec i s = .next t →
    (Unchanged s t .mem ∨ ∃ x, i = .ldBVx x ∨ i = .ldMemIVx x) ∧
    (∀ r, readV t r = readV s r ∨
      (∃ kk, i = .ldVxByte r kk ∨ i = .addVxByte r kk ∨ i = .rndVxByte r kk) ∨
      (∃ y, i = .ldVxVy r y ∨ i = .orVxVy r y ∨ i = .andVxVy r y ∨ i = .xorVxVy r y ∨ i = .addVxVy r y ∨
        i = .subVxVy r y ∨ i = .shrVx r y ∨ i = .subnVxVy r y ∨ i = .shlVx r y) ∨
      i = .ldVxDt r ∨ i = .ldVxK r ∨ (∃ x, r ≤ x ∧ i = .ldVxMemI x) ∨
      (r = 15 ∧ ((∃ x y, i = .addVxVy x y ∨ i = .subVxVy x y ∨ i = .shrVx x y ∨ i = .subnVxVy x y ∨ i = .shlVx x y) ∨
        (∃ x, i = .addIVx x) ∨ ∃ x y n, i = .drwVxVyNibble x y n))) ∧
    (Unchanged s t .i ∨ (∃ nnn, i = .ldIAddr nnn) ∨ ∃ x, i = .addIVx x ∨ i = .ldFVx x) ∧
    (Unchanged s t .pc ∨ i = .ret ∨ (∃ nnn, i = .jpAddr nnn ∨ i = .callAddr nnn ∨ i = .jpV0Addr nnn) ∨
      (∃ x kk, i = .seVxByte x kk ∨ i = .sneVxByte x kk) ∨ (∃ x y, i = .seVxVy x y ∨ i = .sneVxVy x y) ∨
      (∃ x, i = .skpVx x ∨ i = .sknpVx x ∨ i = .ldVxK x ∨ i = .ldBVx x ∨ i = .ldMemIVx x ∨ i = .ldVxMemI x) ∨
      ∃ x y n, i = .drwVxVyNibble x y n) ∧
    (Unchanged s t .stack ∨ ∃ nnn, i = .callAddr nnn) ∧
    (Unchanged s t .sp ∨ i = .ret ∨ ∃ nnn, i = .callAddr nnn) ∧
    (Unchanged s t .dt ∨ ∃ x, i = .ldDtVx x) ∧
    (Unchanged s t .st ∨ ∃ x, i = .ldStVx x) ∧
    ((Unchanged s t .disp ∧ Unchanged s t .dirty) ∨ i = .cls ∨ ∃ x y n, i = .drwVxVyNibble x y n) ∧
    Unchanged s t .key ∧
    (Unchanged s t .fault ∨ i = .ret ∨ (∃ nnn, i = .callAddr nnn) ∨ (∃ x y n, i = .drwVxVyNibble x y n) ∨
      ∃ x, i = .ldBVx x ∨ i = .ldMemIVx x ∨ i = .ldVxMemI x ∨ i = .skpVx x ∨ i = .sknpVx x) ∧
    Unchanged s t .log ∧
    (Unchanged s t .draws ∨ ∃ x kk, i = .rndVxByte x kk)

/-- Who writes VF (R15): an instruction that changes VF is one of the seven flag writers, names VF as its destination,
or loads a block that reaches it. A flag writer leaves 0 or 1 in it unless VF is the destination of its result (possible in
the five of family 8 only) or it faults (possible in `Dxyn` only). -/
def Obligations.OnlyFlagWritersTouchVF : Prop :=
  ∀ (i : Instr) (s t : State), exec i s = .next t →
    (readV t 15 = readV s 15 ∨
      (∃ x y, i = .addVxVy x y ∨ i = .subVxVy x y ∨ i = .shrVx x y ∨ i = .subnVxVy x y ∨ i = .shlVx x y) ∨
      (∃ x, i = .addIVx x) ∨ (∃ x y n, i = .drwVxVyNibble x y n) ∨
      (∃ kk, i = .ldVxByte 15 kk ∨ i = .addVxByte 15 kk ∨ i = .rndVxByte 15 kk) ∨
      (∃ y, i = .ldVxVy 15 y ∨ i = .orVxVy 15 y ∨ i = .andVxVy 15 y ∨ i = .xorVxVy 15 y) ∨
      i = .ldVxDt 15 ∨ i = .ldVxK 15 ∨ i = .ldVxMemI 15) ∧
    (∀ x y n,
      (x ≠ 15 ∧ (i = .addVxVy x y ∨ i = .subVxVy x y ∨ i = .shrVx x y ∨ i = .subnVxVy x y ∨ i = .shlVx x y)) ∨
        i = .addIVx x ∨ (i = .drwVxVyNibble x y n ∧ spriteInRange s n = true) →
      readV t 15 = 0 ∨ readV t 15 = 1)

/-- No instruction reads `ST`, `DIRTY` or the recorded events (R22, R24, R158): a cycle does the same to the rest of
the state whatever they hold. -/
def Obligations.NoInstructionReadsSoundTimerDirtyOrLog : Prop :=
  ∀ (s t : State) (b : Byte) (d : Bool) (l : List LogUnknown), step s = .next t →
    ∃ (b' : Byte) (d' : Bool) (es : List LogUnknown), t.log = es ++ s.log ∧
      step { s with st := b, dirty := d, log := l } = .next { t with st := b', dirty := d', log := es ++ l }

/-- An operation is a function of the block and, for `Cxkk`, of the byte drawn (R10, R28, R86, R158): from two states
with the same twelve items and the same next draw it leaves the same twelve items, replies alike and emits the same
events, whatever was recorded or drawn before (log entries 3 and 4). -/
def Obligations.OperationsDependOnBlockAndDrawOnly : Prop :=
  ∀ (op : Operation) (s u t : State) (r : Reply), u.toBlock = s.toBlock → currentDraw u = currentDraw s →
    perform op s = .next (t, r) →
    ∃ (w : State) (es : List LogUnknown), perform op u = .next (w, r) ∧ w.toBlock = t.toBlock ∧
      t.log = es ++ s.log ∧ w.log = es ++ u.log ∧ w.draws + s.draws = t.draws + u.draws

/-! The invariant and reachable states. -/

/-- The reset state meets the invariant. -/
def Obligations.ResetStateMeetsInv : Prop := Inv State.reset

/-- Every cycle keeps the invariant, from every state that meets it: the canonical form of memory, `PC` at most
0x10FE, and return addresses at most 0x1000 (R30). -/
def Obligations.EveryCycleKeepsInv : Prop := ∀ s t : State, Inv s → step s = .next t → Inv t

/-- Every operation of the host keeps the invariant, the load of any program among them (R30, R168). -/
def Obligations.EveryOperationKeepsInv : Prop :=
  ∀ (op : Operation) (s t : State) (r : Reply), Inv s → perform op s = .next (t, r) → Inv t

/-- R30: the ranges of every reachable state. -/
def Obligations.ReachableStatesAreInRange : Prop :=
  ∀ s : State, Reachable s → s.sp.val ≤ 16 ∧ (faultCode s.fault).toNat ≤ 5 ∧ s.pc.toNat ≤ 0x10FE ∧
    ∀ k : Fin 16, k.val < s.sp.val → s.stack[k].toNat ≤ 0x1000

/-! Reset, load and the host's operations. -/

/-- `reset` (R180; the values of `STACK`, `DISP`, `DIRTY`, `KEY` and `FAULT` are the spec's own decisions D10 and D2)
puts every piece of state at its reset value from any state, a faulted one too, so that the block afterwards does not
depend on the block before, and the model's reset state has these values. -/
def Obligations.ResetReachesTheTableFromAnyState : Prop :=
  IsReset State.reset ∧ ∀ s : State, ∃ t, perform .reset s = .next (t, .unit) ∧ IsReset t ∧ t.toBlock = State.reset.toBlock

/-- A program that fits (R181, the spec's own decision D11): the image is at 0x200, the registers, timers, display and
fault are cleared, `DIRTY` is set, `KEY` and `STACK` are kept. -/
def Obligations.LoadInstallsAProgram : Prop :=
  ∀ (bytes : List Byte) (s : State), bytes.length ≤ 3584 →
    ∃ t, perform (.loadProgram bytes) s = .next (t, .loaded true) ∧
      Unchanged s t .key ∧ Unchanged s t .stack ∧
      (∀ k (h : k < bytes.length), readByte t.mem (0x200 + k) = bytes[k]) ∧
      (∀ r, readV t r = 0) ∧ t.i = 0 ∧ t.pc.toNat = 0x200 ∧ t.sp.val = 0 ∧ t.dt = 0 ∧ t.st = 0 ∧
      (∀ p, cellOn t.disp p = false) ∧ t.dirty = true ∧ t.fault = .none

/-- R183: a load writes the image and no other byte, so what lies below 0x200 and above the image stays; after `reset`
and one load the font and the zero fill are there, below 0x200 and above the image. -/
def Obligations.LoadLeavesResidualMemory : Prop :=
  ∀ (bytes : List Byte) (s : State), bytes.length ≤ 3584 →
    (∀ t r, perform (.loadProgram bytes) s = .next (t, r) →
      ∀ a, a < 0x200 ∨ 0x200 + bytes.length ≤ a → readByte t.mem a = readByte s.mem a) ∧
    (∀ u t r, perform .reset s = .next (u, .unit) → perform (.loadProgram bytes) u = .next (t, r) →
      ∀ a, a < 0x200 ∨ 0x200 + bytes.length ≤ a → readByte t.mem a = if a < 80 then Config.font a else 0)

/-- R182: a program of more than 3584 bytes is refused with `ProgramTooLarge` and no piece of state changes. -/
def Obligations.OversizedLoadChangesNothing : Prop :=
  ∀ (bytes : List Byte) (s : State), 3584 < bytes.length →
    perform (.loadProgram bytes) s = .next (s, .loaded false)

/-- R165: a tick decrements each timer unless it is 0, returns whether `ST` was 1, and changes nothing else. -/
def Obligations.TickCountsBothTimersDown : Prop :=
  ∀ s : State, ∃ t due, perform .tickTimers s = .next (t, .tone due) ∧ OnlyChanges [.dt, .st] s t ∧
    t.dt.toNat = s.dt.toNat - 1 ∧ t.st.toNat = s.st.toNat - 1 ∧ (due = true ↔ s.st.toNat = 1)

/-- Exactly one tone (R166, the spec's own decision D12): of the ticks that follow one another, the one that signals
the tone is the `k`-th, where `k` is what `ST` held. -/
def Obligations.ToneIsDueOnExactlyOneTick : Prop :=
  ∀ (s : State) (n : Nat),
    (tickTimers ((fun u => (tickTimers u).1)^[n] s)).2 = true ↔ s.st.toNat = n + 1

/-- R169 to R172: `display_buffer` and the timer reads return the cells and the timers and change nothing; `set_key`
writes the one cell; `take_dirty` returns `DIRTY` and clears it. -/
def Obligations.HostPortsDoOnlyTheirPart : Prop :=
  ∀ (k : Fin 16) (down : Bool) (s : State),
    perform .displayBuffer s = .next (s, .cells s.disp) ∧
    perform .soundTimerValue s = .next (s, .timer s.st) ∧
    perform .delayTimerValue s = .next (s, .timer s.dt) ∧
    (∃ t, perform (.setKey k down) s = .next (t, .unit) ∧ OnlyChanges [.key] s t ∧
      ∀ j, keyDown t j = if j = k then down else keyDown s j) ∧
    (∃ t, perform .takeDirty s = .next (t, .dirty s.dirty) ∧ OnlyChanges [.dirty] s t ∧ t.dirty = false)

/-- `fault_status` (R157 and R151, the spec's own decisions D2 and D3) answers the recorded code, 0 to 5 by the table of
R151, in every state and changes nothing. -/
def Obligations.FaultStatusAnswersTheCode : Prop :=
  (∀ s : State, perform .faultStatus s = .next (s, .fault (faultCode s.fault))) ∧
  faultCode .none = 0 ∧ faultCode .stackOverflow = 1 ∧ faultCode .stackUnderflow = 2 ∧
  faultCode .fetchOutOfRange = 3 ∧ faultCode .dataAddressOutOfRange = 4 ∧ faultCode .keyIndexOutOfRange = 5

/-- How a fault is left (R156 and R157, the spec's own decision D2): under any schedule without `reset` and without a
load that fits, a recorded fault stays, and only the timers, the keypad and `DIRTY` can change. -/
def Obligations.FaultStaysUntilResetOrLoad : Prop :=
  ∀ (ops : List Operation) (s t : State) (rs : List Reply), s.fault ≠ .none →
    .reset ∉ ops → (∀ bytes, .loadProgram bytes ∈ ops → 3584 < bytes.length) →
    runSchedule ops s = .next (t, rs) → OnlyChanges [.dt, .st, .key, .dirty] s t

/-- Leaving a fault (R157, the spec's own decision D2): after `reset`, and after a load that fits, `fault_status`
answers 0, `PC` is 0x200 and `SP` is 0. -/
def Obligations.ResetAndLoadLeaveAFault : Prop :=
  ∀ (bytes : List Byte) (s : State), bytes.length ≤ 3584 → ∀ op ∈ [Operation.reset, .loadProgram bytes],
    ∃ t r, perform op s = .next (t, r) ∧ perform .faultStatus t = .next (t, .fault 0) ∧
      t.pc.toNat = 0x200 ∧ t.sp.val = 0

/-- Every schedule of whole operations runs to its end (R8, R86): each operation answers a reply. -/
def Obligations.EveryScheduleRuns : Prop :=
  ∀ (ops : List Operation) (s : State), ∃ t rs, runSchedule ops s = .next (t, rs) ∧ rs.length = ops.length

/-- Running without a program (R185): from reset, 1792 cycles each skip the unknown word 0x0000 and emit its event,
and the next one records `FetchOutOfRange` at 0x1000. -/
def Obligations.EmptyMemoryRunsToTheEndAndFaults : Prop :=
  (∀ k ≤ 1792, ∃ t : State, core.run k State.reset = .next t ∧ OnlyChanges [.pc, .log] State.reset t ∧
    t.pc.toNat = 0x200 + 2 * k ∧ t.log.length = k) ∧
  ∃ t : State, core.run 1793 State.reset = .next t ∧ faultCode t.fault = 3 ∧ t.pc.toNat = 0x1000 ∧
    t.log.length = 1792
end

