-- ==== Sys2Proof/Laws/Display.lean ====
section
/-! SUPPORT. The laws of the display: what toggling a cell does, and which cells a sprite covers. -/

namespace Sys2Proof.Machine

/-- One spec of a toggle: the cell is inverted, every other cell is as before. -/
theorem cellOn_flipCell (d : Display) (p q : CellPos) :
    cellOn (flipCell d p) q = (cellOn d q ^^ decide (q = p)) := by
  obtain ⟨c, r⟩ := p
  obtain ⟨c', r'⟩ := q
  have hc : c'.val < 64 := c'.isLt
  simp only [cellOn, flipCell, Vector.getElem_set]
  by_cases hr : r = r'
  · subst hr
    by_cases h : c = c'
    · subst h; simp
    · have h1 : ¬ (c.val = c'.val) := fun e => h (Fin.ext e)
      have h2 : ¬ (c' = c) := fun e => h e.symm
      have h3 : ¬ (c'.val = c.val) := fun e => h1 e.symm
      simp [h2, h3]
  · have h1 : ¬ (r.val = r'.val) := fun e => hr (Fin.ext e)
    have h2 : ¬ (r' = r) := fun e => hr e.symm
    simp [h1, h2]

/-- A cell of the blank display is off. -/
@[simp] theorem cellOn_blank (p : CellPos) : cellOn (Vector.replicate 32 0#64) p = false := by
  simp [cellOn]

/-- The cells under row `j` of a sprite (R133). -/
theorem mem_rowCells (cx cy j : Nat) (b : Byte) (p : CellPos) :
    p ∈ rowCells cx cy j b ↔ ∃ i < 8, b.getLsbD (7 - i) = true ∧ p = spriteCell cx cy i j := by
  simp only [rowCells, List.mem_map, List.mem_filter, List.mem_range]
  constructor
  · rintro ⟨i, ⟨h, hb⟩, rfl⟩; exact ⟨i, h, hb, rfl⟩
  · rintro ⟨i, h, hb, rfl⟩; exact ⟨i, ⟨h, hb⟩, rfl⟩

/-- The cells under a sprite: row `k` of it lies on row `j + k` (R133). -/
theorem mem_spriteCells (cx cy j : Nat) (bs : List Byte) (p : CellPos) :
    p ∈ spriteCells cx cy j bs ↔
      ∃ k, ∃ h : k < bs.length, ∃ i < 8, bs[k].getLsbD (7 - i) = true ∧ p = spriteCell cx cy i (j + k) := by
  induction bs generalizing j with
  | nil => simp [spriteCells]
  | cons b bs ih =>
    rw [spriteCells, List.mem_append, mem_rowCells, ih]
    constructor
    · rintro (⟨i, hi, hb, rfl⟩ | ⟨k, hk, i, hi, hb, rfl⟩)
      · exact ⟨0, by simp, i, hi, hb, rfl⟩
      · exact ⟨k + 1, by simpa using hk, i, hi, by simpa using hb, by rw [Nat.add_assoc, Nat.add_comm 1 k]⟩
    · rintro ⟨k, hk, i, hi, hb, rfl⟩
      cases k with
      | zero => exact .inl ⟨i, hi, hb, rfl⟩
      | succ k =>
        exact .inr ⟨k, by simpa using hk, i, hi, by simpa using hb, by rw [Nat.add_assoc, Nat.add_comm 1 k]⟩

end Sys2Proof.Machine
end

