-- ==== Sys2Proof/Laws/State.lean ====
section
/-! SUPPORT. One lemma per field per update of State, each true by rfl, so that no proof unfolds a record update. -/

namespace Sys2Proof.Machine

/-! `writeV`. -/

@[simp] theorem writeV_mem (s : State) (x : Reg) (b : Byte) : (writeV s x b).mem = s.mem := rfl
@[simp] theorem writeV_v (s : State) (x : Reg) (b : Byte) : (writeV s x b).v = s.v.set x.val b := rfl
@[simp] theorem writeV_i (s : State) (x : Reg) (b : Byte) : (writeV s x b).i = s.i := rfl
@[simp] theorem writeV_pc (s : State) (x : Reg) (b : Byte) : (writeV s x b).pc = s.pc := rfl
@[simp] theorem writeV_stack (s : State) (x : Reg) (b : Byte) : (writeV s x b).stack = s.stack := rfl
@[simp] theorem writeV_sp (s : State) (x : Reg) (b : Byte) : (writeV s x b).sp = s.sp := rfl
@[simp] theorem writeV_dt (s : State) (x : Reg) (b : Byte) : (writeV s x b).dt = s.dt := rfl
@[simp] theorem writeV_st (s : State) (x : Reg) (b : Byte) : (writeV s x b).st = s.st := rfl
@[simp] theorem writeV_disp (s : State) (x : Reg) (b : Byte) : (writeV s x b).disp = s.disp := rfl
@[simp] theorem writeV_dirty (s : State) (x : Reg) (b : Byte) : (writeV s x b).dirty = s.dirty := rfl
@[simp] theorem writeV_key (s : State) (x : Reg) (b : Byte) : (writeV s x b).key = s.key := rfl
@[simp] theorem writeV_fault (s : State) (x : Reg) (b : Byte) : (writeV s x b).fault = s.fault := rfl
@[simp] theorem writeV_log (s : State) (x : Reg) (b : Byte) : (writeV s x b).log = s.log := rfl
@[simp] theorem writeV_draws (s : State) (x : Reg) (b : Byte) : (writeV s x b).draws = s.draws := rfl

/-! `setRegs`. -/

@[simp] theorem setRegs_mem (s : State) (v : Vector Byte 16) : (setRegs s v).mem = s.mem := rfl
@[simp] theorem setRegs_v (s : State) (v : Vector Byte 16) : (setRegs s v).v = v := rfl
@[simp] theorem setRegs_i (s : State) (v : Vector Byte 16) : (setRegs s v).i = s.i := rfl
@[simp] theorem setRegs_pc (s : State) (v : Vector Byte 16) : (setRegs s v).pc = s.pc := rfl
@[simp] theorem setRegs_stack (s : State) (v : Vector Byte 16) : (setRegs s v).stack = s.stack := rfl
@[simp] theorem setRegs_sp (s : State) (v : Vector Byte 16) : (setRegs s v).sp = s.sp := rfl
@[simp] theorem setRegs_dt (s : State) (v : Vector Byte 16) : (setRegs s v).dt = s.dt := rfl
@[simp] theorem setRegs_st (s : State) (v : Vector Byte 16) : (setRegs s v).st = s.st := rfl
@[simp] theorem setRegs_disp (s : State) (v : Vector Byte 16) : (setRegs s v).disp = s.disp := rfl
@[simp] theorem setRegs_dirty (s : State) (v : Vector Byte 16) : (setRegs s v).dirty = s.dirty := rfl
@[simp] theorem setRegs_key (s : State) (v : Vector Byte 16) : (setRegs s v).key = s.key := rfl
@[simp] theorem setRegs_fault (s : State) (v : Vector Byte 16) : (setRegs s v).fault = s.fault := rfl
@[simp] theorem setRegs_log (s : State) (v : Vector Byte 16) : (setRegs s v).log = s.log := rfl
@[simp] theorem setRegs_draws (s : State) (v : Vector Byte 16) : (setRegs s v).draws = s.draws := rfl

/-! `setI`. -/

@[simp] theorem setI_mem (s : State) (w : Word) : (setI s w).mem = s.mem := rfl
@[simp] theorem setI_v (s : State) (w : Word) : (setI s w).v = s.v := rfl
@[simp] theorem setI_i (s : State) (w : Word) : (setI s w).i = w := rfl
@[simp] theorem setI_pc (s : State) (w : Word) : (setI s w).pc = s.pc := rfl
@[simp] theorem setI_stack (s : State) (w : Word) : (setI s w).stack = s.stack := rfl
@[simp] theorem setI_sp (s : State) (w : Word) : (setI s w).sp = s.sp := rfl
@[simp] theorem setI_dt (s : State) (w : Word) : (setI s w).dt = s.dt := rfl
@[simp] theorem setI_st (s : State) (w : Word) : (setI s w).st = s.st := rfl
@[simp] theorem setI_disp (s : State) (w : Word) : (setI s w).disp = s.disp := rfl
@[simp] theorem setI_dirty (s : State) (w : Word) : (setI s w).dirty = s.dirty := rfl
@[simp] theorem setI_key (s : State) (w : Word) : (setI s w).key = s.key := rfl
@[simp] theorem setI_fault (s : State) (w : Word) : (setI s w).fault = s.fault := rfl
@[simp] theorem setI_log (s : State) (w : Word) : (setI s w).log = s.log := rfl
@[simp] theorem setI_draws (s : State) (w : Word) : (setI s w).draws = s.draws := rfl

/-! `setPc`. -/

@[simp] theorem setPc_mem (s : State) (w : Word) : (setPc s w).mem = s.mem := rfl
@[simp] theorem setPc_v (s : State) (w : Word) : (setPc s w).v = s.v := rfl
@[simp] theorem setPc_i (s : State) (w : Word) : (setPc s w).i = s.i := rfl
@[simp] theorem setPc_pc (s : State) (w : Word) : (setPc s w).pc = w := rfl
@[simp] theorem setPc_stack (s : State) (w : Word) : (setPc s w).stack = s.stack := rfl
@[simp] theorem setPc_sp (s : State) (w : Word) : (setPc s w).sp = s.sp := rfl
@[simp] theorem setPc_dt (s : State) (w : Word) : (setPc s w).dt = s.dt := rfl
@[simp] theorem setPc_st (s : State) (w : Word) : (setPc s w).st = s.st := rfl
@[simp] theorem setPc_disp (s : State) (w : Word) : (setPc s w).disp = s.disp := rfl
@[simp] theorem setPc_dirty (s : State) (w : Word) : (setPc s w).dirty = s.dirty := rfl
@[simp] theorem setPc_key (s : State) (w : Word) : (setPc s w).key = s.key := rfl
@[simp] theorem setPc_fault (s : State) (w : Word) : (setPc s w).fault = s.fault := rfl
@[simp] theorem setPc_log (s : State) (w : Word) : (setPc s w).log = s.log := rfl
@[simp] theorem setPc_draws (s : State) (w : Word) : (setPc s w).draws = s.draws := rfl

/-! `setDt`. -/

@[simp] theorem setDt_mem (s : State) (b : Byte) : (setDt s b).mem = s.mem := rfl
@[simp] theorem setDt_v (s : State) (b : Byte) : (setDt s b).v = s.v := rfl
@[simp] theorem setDt_i (s : State) (b : Byte) : (setDt s b).i = s.i := rfl
@[simp] theorem setDt_pc (s : State) (b : Byte) : (setDt s b).pc = s.pc := rfl
@[simp] theorem setDt_stack (s : State) (b : Byte) : (setDt s b).stack = s.stack := rfl
@[simp] theorem setDt_sp (s : State) (b : Byte) : (setDt s b).sp = s.sp := rfl
@[simp] theorem setDt_dt (s : State) (b : Byte) : (setDt s b).dt = b := rfl
@[simp] theorem setDt_st (s : State) (b : Byte) : (setDt s b).st = s.st := rfl
@[simp] theorem setDt_disp (s : State) (b : Byte) : (setDt s b).disp = s.disp := rfl
@[simp] theorem setDt_dirty (s : State) (b : Byte) : (setDt s b).dirty = s.dirty := rfl
@[simp] theorem setDt_key (s : State) (b : Byte) : (setDt s b).key = s.key := rfl
@[simp] theorem setDt_fault (s : State) (b : Byte) : (setDt s b).fault = s.fault := rfl
@[simp] theorem setDt_log (s : State) (b : Byte) : (setDt s b).log = s.log := rfl
@[simp] theorem setDt_draws (s : State) (b : Byte) : (setDt s b).draws = s.draws := rfl

/-! `setSt`. -/

@[simp] theorem setSt_mem (s : State) (b : Byte) : (setSt s b).mem = s.mem := rfl
@[simp] theorem setSt_v (s : State) (b : Byte) : (setSt s b).v = s.v := rfl
@[simp] theorem setSt_i (s : State) (b : Byte) : (setSt s b).i = s.i := rfl
@[simp] theorem setSt_pc (s : State) (b : Byte) : (setSt s b).pc = s.pc := rfl
@[simp] theorem setSt_stack (s : State) (b : Byte) : (setSt s b).stack = s.stack := rfl
@[simp] theorem setSt_sp (s : State) (b : Byte) : (setSt s b).sp = s.sp := rfl
@[simp] theorem setSt_dt (s : State) (b : Byte) : (setSt s b).dt = s.dt := rfl
@[simp] theorem setSt_st (s : State) (b : Byte) : (setSt s b).st = b := rfl
@[simp] theorem setSt_disp (s : State) (b : Byte) : (setSt s b).disp = s.disp := rfl
@[simp] theorem setSt_dirty (s : State) (b : Byte) : (setSt s b).dirty = s.dirty := rfl
@[simp] theorem setSt_key (s : State) (b : Byte) : (setSt s b).key = s.key := rfl
@[simp] theorem setSt_fault (s : State) (b : Byte) : (setSt s b).fault = s.fault := rfl
@[simp] theorem setSt_log (s : State) (b : Byte) : (setSt s b).log = s.log := rfl
@[simp] theorem setSt_draws (s : State) (b : Byte) : (setSt s b).draws = s.draws := rfl

/-! `setMem`. -/

@[simp] theorem setMem_mem (s : State) (m : Memory) : (setMem s m).mem = m := rfl
@[simp] theorem setMem_v (s : State) (m : Memory) : (setMem s m).v = s.v := rfl
@[simp] theorem setMem_i (s : State) (m : Memory) : (setMem s m).i = s.i := rfl
@[simp] theorem setMem_pc (s : State) (m : Memory) : (setMem s m).pc = s.pc := rfl
@[simp] theorem setMem_stack (s : State) (m : Memory) : (setMem s m).stack = s.stack := rfl
@[simp] theorem setMem_sp (s : State) (m : Memory) : (setMem s m).sp = s.sp := rfl
@[simp] theorem setMem_dt (s : State) (m : Memory) : (setMem s m).dt = s.dt := rfl
@[simp] theorem setMem_st (s : State) (m : Memory) : (setMem s m).st = s.st := rfl
@[simp] theorem setMem_disp (s : State) (m : Memory) : (setMem s m).disp = s.disp := rfl
@[simp] theorem setMem_dirty (s : State) (m : Memory) : (setMem s m).dirty = s.dirty := rfl
@[simp] theorem setMem_key (s : State) (m : Memory) : (setMem s m).key = s.key := rfl
@[simp] theorem setMem_fault (s : State) (m : Memory) : (setMem s m).fault = s.fault := rfl
@[simp] theorem setMem_log (s : State) (m : Memory) : (setMem s m).log = s.log := rfl
@[simp] theorem setMem_draws (s : State) (m : Memory) : (setMem s m).draws = s.draws := rfl

/-! `setDisp`. -/

@[simp] theorem setDisp_mem (s : State) (d : Display) : (setDisp s d).mem = s.mem := rfl
@[simp] theorem setDisp_v (s : State) (d : Display) : (setDisp s d).v = s.v := rfl
@[simp] theorem setDisp_i (s : State) (d : Display) : (setDisp s d).i = s.i := rfl
@[simp] theorem setDisp_pc (s : State) (d : Display) : (setDisp s d).pc = s.pc := rfl
@[simp] theorem setDisp_stack (s : State) (d : Display) : (setDisp s d).stack = s.stack := rfl
@[simp] theorem setDisp_sp (s : State) (d : Display) : (setDisp s d).sp = s.sp := rfl
@[simp] theorem setDisp_dt (s : State) (d : Display) : (setDisp s d).dt = s.dt := rfl
@[simp] theorem setDisp_st (s : State) (d : Display) : (setDisp s d).st = s.st := rfl
@[simp] theorem setDisp_disp (s : State) (d : Display) : (setDisp s d).disp = d := rfl
@[simp] theorem setDisp_dirty (s : State) (d : Display) : (setDisp s d).dirty = true := rfl
@[simp] theorem setDisp_key (s : State) (d : Display) : (setDisp s d).key = s.key := rfl
@[simp] theorem setDisp_fault (s : State) (d : Display) : (setDisp s d).fault = s.fault := rfl
@[simp] theorem setDisp_log (s : State) (d : Display) : (setDisp s d).log = s.log := rfl
@[simp] theorem setDisp_draws (s : State) (d : Display) : (setDisp s d).draws = s.draws := rfl

/-! `nextDraw`. -/

@[simp] theorem nextDraw_mem (s : State) : (nextDraw s).mem = s.mem := rfl
@[simp] theorem nextDraw_v (s : State) : (nextDraw s).v = s.v := rfl
@[simp] theorem nextDraw_i (s : State) : (nextDraw s).i = s.i := rfl
@[simp] theorem nextDraw_pc (s : State) : (nextDraw s).pc = s.pc := rfl
@[simp] theorem nextDraw_stack (s : State) : (nextDraw s).stack = s.stack := rfl
@[simp] theorem nextDraw_sp (s : State) : (nextDraw s).sp = s.sp := rfl
@[simp] theorem nextDraw_dt (s : State) : (nextDraw s).dt = s.dt := rfl
@[simp] theorem nextDraw_st (s : State) : (nextDraw s).st = s.st := rfl
@[simp] theorem nextDraw_disp (s : State) : (nextDraw s).disp = s.disp := rfl
@[simp] theorem nextDraw_dirty (s : State) : (nextDraw s).dirty = s.dirty := rfl
@[simp] theorem nextDraw_key (s : State) : (nextDraw s).key = s.key := rfl
@[simp] theorem nextDraw_fault (s : State) : (nextDraw s).fault = s.fault := rfl
@[simp] theorem nextDraw_log (s : State) : (nextDraw s).log = s.log := rfl
@[simp] theorem nextDraw_draws (s : State) : (nextDraw s).draws = s.draws + 1 := rfl

/-! `advancePc`. -/

@[simp] theorem advancePc_mem (s : State) : (advancePc s).mem = s.mem := rfl
@[simp] theorem advancePc_v (s : State) : (advancePc s).v = s.v := rfl
@[simp] theorem advancePc_i (s : State) : (advancePc s).i = s.i := rfl
@[simp] theorem advancePc_pc (s : State) : (advancePc s).pc = s.pc + 2 := rfl
@[simp] theorem advancePc_stack (s : State) : (advancePc s).stack = s.stack := rfl
@[simp] theorem advancePc_sp (s : State) : (advancePc s).sp = s.sp := rfl
@[simp] theorem advancePc_dt (s : State) : (advancePc s).dt = s.dt := rfl
@[simp] theorem advancePc_st (s : State) : (advancePc s).st = s.st := rfl
@[simp] theorem advancePc_disp (s : State) : (advancePc s).disp = s.disp := rfl
@[simp] theorem advancePc_dirty (s : State) : (advancePc s).dirty = s.dirty := rfl
@[simp] theorem advancePc_key (s : State) : (advancePc s).key = s.key := rfl
@[simp] theorem advancePc_fault (s : State) : (advancePc s).fault = s.fault := rfl
@[simp] theorem advancePc_log (s : State) : (advancePc s).log = s.log := rfl
@[simp] theorem advancePc_draws (s : State) : (advancePc s).draws = s.draws := rfl

/-! `takeFault`. -/

@[simp] theorem takeFault_mem (f : FaultStatus) (w : Word) (s : State) : (takeFault f w s).mem = s.mem := rfl
@[simp] theorem takeFault_v (f : FaultStatus) (w : Word) (s : State) : (takeFault f w s).v = s.v := rfl
@[simp] theorem takeFault_i (f : FaultStatus) (w : Word) (s : State) : (takeFault f w s).i = s.i := rfl
@[simp] theorem takeFault_pc (f : FaultStatus) (w : Word) (s : State) : (takeFault f w s).pc = w := rfl
@[simp] theorem takeFault_stack (f : FaultStatus) (w : Word) (s : State) : (takeFault f w s).stack = s.stack := rfl
@[simp] theorem takeFault_sp (f : FaultStatus) (w : Word) (s : State) : (takeFault f w s).sp = s.sp := rfl
@[simp] theorem takeFault_dt (f : FaultStatus) (w : Word) (s : State) : (takeFault f w s).dt = s.dt := rfl
@[simp] theorem takeFault_st (f : FaultStatus) (w : Word) (s : State) : (takeFault f w s).st = s.st := rfl
@[simp] theorem takeFault_disp (f : FaultStatus) (w : Word) (s : State) : (takeFault f w s).disp = s.disp := rfl
@[simp] theorem takeFault_dirty (f : FaultStatus) (w : Word) (s : State) : (takeFault f w s).dirty = s.dirty := rfl
@[simp] theorem takeFault_key (f : FaultStatus) (w : Word) (s : State) : (takeFault f w s).key = s.key := rfl
@[simp] theorem takeFault_fault (f : FaultStatus) (w : Word) (s : State) : (takeFault f w s).fault = f := rfl
@[simp] theorem takeFault_log (f : FaultStatus) (w : Word) (s : State) : (takeFault f w s).log = s.log := rfl
@[simp] theorem takeFault_draws (f : FaultStatus) (w : Word) (s : State) : (takeFault f w s).draws = s.draws := rfl

/-! `fetchFault`. -/

@[simp] theorem fetchFault_mem (s : State) : (fetchFault s).mem = s.mem := rfl
@[simp] theorem fetchFault_v (s : State) : (fetchFault s).v = s.v := rfl
@[simp] theorem fetchFault_i (s : State) : (fetchFault s).i = s.i := rfl
@[simp] theorem fetchFault_pc (s : State) : (fetchFault s).pc = s.pc := rfl
@[simp] theorem fetchFault_stack (s : State) : (fetchFault s).stack = s.stack := rfl
@[simp] theorem fetchFault_sp (s : State) : (fetchFault s).sp = s.sp := rfl
@[simp] theorem fetchFault_dt (s : State) : (fetchFault s).dt = s.dt := rfl
@[simp] theorem fetchFault_st (s : State) : (fetchFault s).st = s.st := rfl
@[simp] theorem fetchFault_disp (s : State) : (fetchFault s).disp = s.disp := rfl
@[simp] theorem fetchFault_dirty (s : State) : (fetchFault s).dirty = s.dirty := rfl
@[simp] theorem fetchFault_key (s : State) : (fetchFault s).key = s.key := rfl
@[simp] theorem fetchFault_fault (s : State) : (fetchFault s).fault = .fetchOutOfRange := rfl
@[simp] theorem fetchFault_log (s : State) : (fetchFault s).log = s.log := rfl
@[simp] theorem fetchFault_draws (s : State) : (fetchFault s).draws = s.draws := rfl

/-! `leaveFault`. -/

@[simp] theorem leaveFault_mem (s : State) : (leaveFault s).mem = s.mem := rfl
@[simp] theorem leaveFault_v (s : State) : (leaveFault s).v = s.v := rfl
@[simp] theorem leaveFault_i (s : State) : (leaveFault s).i = s.i := rfl
@[simp] theorem leaveFault_pc (s : State) : (leaveFault s).pc = BitVec.ofNat 16 Config.loadAddr := rfl
@[simp] theorem leaveFault_stack (s : State) : (leaveFault s).stack = s.stack := rfl
@[simp] theorem leaveFault_sp (s : State) : (leaveFault s).sp = 0 := rfl
@[simp] theorem leaveFault_dt (s : State) : (leaveFault s).dt = s.dt := rfl
@[simp] theorem leaveFault_st (s : State) : (leaveFault s).st = s.st := rfl
@[simp] theorem leaveFault_disp (s : State) : (leaveFault s).disp = s.disp := rfl
@[simp] theorem leaveFault_dirty (s : State) : (leaveFault s).dirty = s.dirty := rfl
@[simp] theorem leaveFault_key (s : State) : (leaveFault s).key = s.key := rfl
@[simp] theorem leaveFault_fault (s : State) : (leaveFault s).fault = .none := rfl
@[simp] theorem leaveFault_log (s : State) : (leaveFault s).log = s.log := rfl
@[simp] theorem leaveFault_draws (s : State) : (leaveFault s).draws = s.draws := rfl

/-! `skipUnknown`. -/

@[simp] theorem skipUnknown_mem (op : Word) (s : State) : (skipUnknown op s).mem = s.mem := rfl
@[simp] theorem skipUnknown_v (op : Word) (s : State) : (skipUnknown op s).v = s.v := rfl
@[simp] theorem skipUnknown_i (op : Word) (s : State) : (skipUnknown op s).i = s.i := rfl
@[simp] theorem skipUnknown_pc (op : Word) (s : State) : (skipUnknown op s).pc = s.pc + 2 := rfl
@[simp] theorem skipUnknown_stack (op : Word) (s : State) : (skipUnknown op s).stack = s.stack := rfl
@[simp] theorem skipUnknown_sp (op : Word) (s : State) : (skipUnknown op s).sp = s.sp := rfl
@[simp] theorem skipUnknown_dt (op : Word) (s : State) : (skipUnknown op s).dt = s.dt := rfl
@[simp] theorem skipUnknown_st (op : Word) (s : State) : (skipUnknown op s).st = s.st := rfl
@[simp] theorem skipUnknown_disp (op : Word) (s : State) : (skipUnknown op s).disp = s.disp := rfl
@[simp] theorem skipUnknown_dirty (op : Word) (s : State) : (skipUnknown op s).dirty = s.dirty := rfl
@[simp] theorem skipUnknown_key (op : Word) (s : State) : (skipUnknown op s).key = s.key := rfl
@[simp] theorem skipUnknown_fault (op : Word) (s : State) : (skipUnknown op s).fault = s.fault := rfl
@[simp] theorem skipUnknown_log (op : Word) (s : State) : (skipUnknown op s).log = ⟨op, s.pc⟩ :: s.log := rfl
@[simp] theorem skipUnknown_draws (op : Word) (s : State) : (skipUnknown op s).draws = s.draws := rfl

/-! `writeFlag`. -/

@[simp] theorem writeFlag_mem (s : State) (c : Bool) : (writeFlag s c).mem = s.mem := rfl
@[simp] theorem writeFlag_v (s : State) (c : Bool) : (writeFlag s c).v = s.v.set regVF.val (flagByte c) := rfl
@[simp] theorem writeFlag_i (s : State) (c : Bool) : (writeFlag s c).i = s.i := rfl
@[simp] theorem writeFlag_pc (s : State) (c : Bool) : (writeFlag s c).pc = s.pc := rfl
@[simp] theorem writeFlag_stack (s : State) (c : Bool) : (writeFlag s c).stack = s.stack := rfl
@[simp] theorem writeFlag_sp (s : State) (c : Bool) : (writeFlag s c).sp = s.sp := rfl
@[simp] theorem writeFlag_dt (s : State) (c : Bool) : (writeFlag s c).dt = s.dt := rfl
@[simp] theorem writeFlag_st (s : State) (c : Bool) : (writeFlag s c).st = s.st := rfl
@[simp] theorem writeFlag_disp (s : State) (c : Bool) : (writeFlag s c).disp = s.disp := rfl
@[simp] theorem writeFlag_dirty (s : State) (c : Bool) : (writeFlag s c).dirty = s.dirty := rfl
@[simp] theorem writeFlag_key (s : State) (c : Bool) : (writeFlag s c).key = s.key := rfl
@[simp] theorem writeFlag_fault (s : State) (c : Bool) : (writeFlag s c).fault = s.fault := rfl
@[simp] theorem writeFlag_log (s : State) (c : Bool) : (writeFlag s c).log = s.log := rfl
@[simp] theorem writeFlag_draws (s : State) (c : Bool) : (writeFlag s c).draws = s.draws := rfl

/-! `writeFlagThenV`. -/

@[simp] theorem writeFlagThenV_mem (s : State) (c : Bool) (x : Reg) (r : Byte) : (writeFlagThenV s c x r).mem = s.mem := rfl
@[simp] theorem writeFlagThenV_v (s : State) (c : Bool) (x : Reg) (r : Byte) : (writeFlagThenV s c x r).v = (s.v.set regVF.val (flagByte c)).set x.val r := rfl
@[simp] theorem writeFlagThenV_i (s : State) (c : Bool) (x : Reg) (r : Byte) : (writeFlagThenV s c x r).i = s.i := rfl
@[simp] theorem writeFlagThenV_pc (s : State) (c : Bool) (x : Reg) (r : Byte) : (writeFlagThenV s c x r).pc = s.pc := rfl
@[simp] theorem writeFlagThenV_stack (s : State) (c : Bool) (x : Reg) (r : Byte) : (writeFlagThenV s c x r).stack = s.stack := rfl
@[simp] theorem writeFlagThenV_sp (s : State) (c : Bool) (x : Reg) (r : Byte) : (writeFlagThenV s c x r).sp = s.sp := rfl
@[simp] theorem writeFlagThenV_dt (s : State) (c : Bool) (x : Reg) (r : Byte) : (writeFlagThenV s c x r).dt = s.dt := rfl
@[simp] theorem writeFlagThenV_st (s : State) (c : Bool) (x : Reg) (r : Byte) : (writeFlagThenV s c x r).st = s.st := rfl
@[simp] theorem writeFlagThenV_disp (s : State) (c : Bool) (x : Reg) (r : Byte) : (writeFlagThenV s c x r).disp = s.disp := rfl
@[simp] theorem writeFlagThenV_dirty (s : State) (c : Bool) (x : Reg) (r : Byte) : (writeFlagThenV s c x r).dirty = s.dirty := rfl
@[simp] theorem writeFlagThenV_key (s : State) (c : Bool) (x : Reg) (r : Byte) : (writeFlagThenV s c x r).key = s.key := rfl
@[simp] theorem writeFlagThenV_fault (s : State) (c : Bool) (x : Reg) (r : Byte) : (writeFlagThenV s c x r).fault = s.fault := rfl
@[simp] theorem writeFlagThenV_log (s : State) (c : Bool) (x : Reg) (r : Byte) : (writeFlagThenV s c x r).log = s.log := rfl
@[simp] theorem writeFlagThenV_draws (s : State) (c : Bool) (x : Reg) (r : Byte) : (writeFlagThenV s c x r).draws = s.draws := rfl

/-! `setKey`. -/

@[simp] theorem setKey_mem (k : Fin 16) (down : Bool) (s : State) : (setKey k down s).mem = s.mem := rfl
@[simp] theorem setKey_v (k : Fin 16) (down : Bool) (s : State) : (setKey k down s).v = s.v := rfl
@[simp] theorem setKey_i (k : Fin 16) (down : Bool) (s : State) : (setKey k down s).i = s.i := rfl
@[simp] theorem setKey_pc (k : Fin 16) (down : Bool) (s : State) : (setKey k down s).pc = s.pc := rfl
@[simp] theorem setKey_stack (k : Fin 16) (down : Bool) (s : State) : (setKey k down s).stack = s.stack := rfl
@[simp] theorem setKey_sp (k : Fin 16) (down : Bool) (s : State) : (setKey k down s).sp = s.sp := rfl
@[simp] theorem setKey_dt (k : Fin 16) (down : Bool) (s : State) : (setKey k down s).dt = s.dt := rfl
@[simp] theorem setKey_st (k : Fin 16) (down : Bool) (s : State) : (setKey k down s).st = s.st := rfl
@[simp] theorem setKey_disp (k : Fin 16) (down : Bool) (s : State) : (setKey k down s).disp = s.disp := rfl
@[simp] theorem setKey_dirty (k : Fin 16) (down : Bool) (s : State) : (setKey k down s).dirty = s.dirty := rfl
@[simp] theorem setKey_key (k : Fin 16) (down : Bool) (s : State) : (setKey k down s).key = s.key.set k.val down := rfl
@[simp] theorem setKey_fault (k : Fin 16) (down : Bool) (s : State) : (setKey k down s).fault = s.fault := rfl
@[simp] theorem setKey_log (k : Fin 16) (down : Bool) (s : State) : (setKey k down s).log = s.log := rfl
@[simp] theorem setKey_draws (k : Fin 16) (down : Bool) (s : State) : (setKey k down s).draws = s.draws := rfl

/-! `skipIf`. -/

@[simp] theorem skipIf_mem (c : Bool) (s : State) : (skipIf c s).mem = s.mem := by cases c <;> rfl
@[simp] theorem skipIf_v (c : Bool) (s : State) : (skipIf c s).v = s.v := by cases c <;> rfl
@[simp] theorem skipIf_i (c : Bool) (s : State) : (skipIf c s).i = s.i := by cases c <;> rfl
@[simp] theorem skipIf_pc (c : Bool) (s : State) : (skipIf c s).pc = if c then s.pc + 2 else s.pc := by
  cases c <;> rfl
@[simp] theorem skipIf_stack (c : Bool) (s : State) : (skipIf c s).stack = s.stack := by cases c <;> rfl
@[simp] theorem skipIf_sp (c : Bool) (s : State) : (skipIf c s).sp = s.sp := by cases c <;> rfl
@[simp] theorem skipIf_dt (c : Bool) (s : State) : (skipIf c s).dt = s.dt := by cases c <;> rfl
@[simp] theorem skipIf_st (c : Bool) (s : State) : (skipIf c s).st = s.st := by cases c <;> rfl
@[simp] theorem skipIf_disp (c : Bool) (s : State) : (skipIf c s).disp = s.disp := by cases c <;> rfl
@[simp] theorem skipIf_dirty (c : Bool) (s : State) : (skipIf c s).dirty = s.dirty := by cases c <;> rfl
@[simp] theorem skipIf_key (c : Bool) (s : State) : (skipIf c s).key = s.key := by cases c <;> rfl
@[simp] theorem skipIf_fault (c : Bool) (s : State) : (skipIf c s).fault = s.fault := by cases c <;> rfl
@[simp] theorem skipIf_log (c : Bool) (s : State) : (skipIf c s).log = s.log := by cases c <;> rfl
@[simp] theorem skipIf_draws (c : Bool) (s : State) : (skipIf c s).draws = s.draws := by cases c <;> rfl

/-! The block and what stands beside it. -/

@[simp] theorem reset_toBlock : State.reset.toBlock = Block.reset := rfl
@[simp] theorem resetOp_toBlock (s : State) : (resetOp s).toBlock = Block.reset := rfl
@[simp] theorem resetOp_log (s : State) : (resetOp s).log = s.log := rfl
@[simp] theorem resetOp_draws (s : State) : (resetOp s).draws = s.draws := rfl

/-- Two machines with the same block differ in the record of events and the count of draws only. -/
theorem eq_of_toBlock_eq {s u : State} (h : u.toBlock = s.toBlock) : u = { s with log := u.log, draws := u.draws } := by
  cases u; cases s; cases h; rfl

end Sys2Proof.Machine
end

