-- ==== Sys2Proof/Laws/Registers.lean ====
section
/-! SUPPORT. The laws of the registers, the stack and the operand forms. -/

namespace Sys2Proof.Machine

/-- One spec of a register write: the byte there, every other register as before (R14). -/
theorem readV_writeV (s : State) (x : Reg) (b : Byte) (r : Reg) :
    readV (writeV s x b) r = if r = x then b else readV s r := by
  simp only [readV, writeV, Vector.getElem_set]
  by_cases h : r = x
  · simp [h]
  · have : x.val ≠ r.val := fun e => h (Fin.ext e.symm)
    simp [h, this]

@[simp] theorem readV_writeV_same (s : State) (x : Reg) (b : Byte) : readV (writeV s x b) x = b := by
  simp [readV_writeV]

theorem readV_writeV_other (s : State) {x r : Reg} (b : Byte) (h : r ≠ x) :
    readV (writeV s x b) r = readV s r := by simp [readV_writeV, h]

/-- A register reads the same where `V` is the same. -/
theorem readV_congr {s t : State} (h : t.v = s.v) (r : Reg) : readV t r = readV s r := by simp only [readV, h]

/-- One spec of a flag write followed by a result (R101): the result wins when the destination is VF. -/
theorem readV_writeFlagThenV (s : State) (c : Bool) (x : Reg) (b : Byte) (r : Reg) :
    readV (writeFlagThenV s c x b) r = if r = x then b else if r = regVF then flagByte c else readV s r := by
  simp only [writeFlagThenV, writeFlag, readV_writeV]

theorem readV_writeFlag (s : State) (c : Bool) (r : Reg) :
    readV (writeFlag s c) r = if r = regVF then flagByte c else readV s r := by
  simp only [writeFlag, readV_writeV]

/-- What the load of a block of registers leaves in each (R125). -/
theorem readV_setRegs_regsLoaded (s : State) (x r : Reg) :
    readV (setRegs s (regsLoaded s x)) r = if r ≤ x then readByte s.mem (dataAddr s r.val) else readV s r := by
  simp [readV, setRegs, regsLoaded]

@[simp] theorem length_regsUpTo (s : State) (x : Reg) : (regsUpTo s x).length = x.val + 1 := by
  simp [regsUpTo]

/-- Byte `k` of the block `Fx55` stores is `V[k]` (R124). -/
theorem getElem_regsUpTo (s : State) (x : Reg) (k : Nat) (h : k < (regsUpTo s x).length) :
    (regsUpTo s x)[k] = readV s ⟨k, by simp at h; omega⟩ := by simp [regsUpTo, readV]

/-- Everything a push can do (R92): it succeeds below 16 entries, and fails at 16. -/
theorem pushReturn_cases (s : State) (w : Word) :
    (∃ h : s.sp.val < 16, pushReturn s w =
        some { s with stack := s.stack.set s.sp.val w, sp := ⟨s.sp.val + 1, by omega⟩ }) ∨
      (s.sp.val = 16 ∧ pushReturn s w = none) := by
  by_cases h : s.sp.val < 16
  · exact .inl ⟨h, by simp [pushReturn, h]⟩
  · exact .inr ⟨by omega, by simp [pushReturn, h]⟩

/-- Everything a pop can do (R90): it succeeds above 0 entries, and fails at 0. -/
theorem popReturn_cases (s : State) :
    (∃ h : 0 < s.sp.val, popReturn s =
        some (s.stack[s.sp.val - 1]'(by omega), { s with sp := ⟨s.sp.val - 1, by omega⟩ })) ∨
      (s.sp.val = 0 ∧ popReturn s = none) := by
  by_cases h : 0 < s.sp.val
  · exact .inl ⟨h, by simp [popReturn, h]⟩
  · exact .inr ⟨by omega, by simp [popReturn, h]⟩

/-- A register names a key exactly when its value is at most 15 (R140). -/
theorem keyIndex_cases (b : Byte) :
    (∃ k : Fin 16, k.val = b.toNat ∧ keyIndex b = some k) ∨ (15 < b.toNat ∧ keyIndex b = none) := by
  by_cases h : b.toNat < 16
  · exact .inl ⟨⟨b.toNat, h⟩, rfl, by simp [keyIndex, h]⟩
  · exact .inr ⟨by omega, by simp [keyIndex, h]⟩

/-- The flag byte is 1 or 0 (R15). -/
theorem flagByte_eq (c : Bool) : flagByte c = if c then 1 else 0 := rfl

end Sys2Proof.Machine
end

