-- ==== Sys2Proof/Laws/Step.lean ====
section
/-! SUPPORT. What one step can do, said once, and what a shared operation of the meanings answers. -/

namespace Sys2Proof.Machine

/-- Everything a step that answers a next state can have done (R80). -/
theorem step_cases {s t : State} (h : step s = .next t) :
    (halted s = true ∧ t = s) ∨
    (halted s = false ∧ fetchInRange s = false ∧ t = fetchFault s) ∨
    (halted s = false ∧ fetchInRange s = true ∧ (∃ e, decode (fetchOpcode s) = .error e) ∧
      t = skipUnknown (fetchOpcode s) s) ∨
    (halted s = false ∧ fetchInRange s = true ∧
      ∃ i, decode (fetchOpcode s) = .ok i ∧ exec i (advancePc s) = .next t) := by
  unfold step at h
  cases hh : halted s with
  | true => simp [hh] at h; exact .inl ⟨rfl, h.symm⟩
  | false =>
    simp only [hh, Bool.false_eq_true, if_false] at h
    cases hf : fetchInRange s with
    | false => simp [hf] at h; exact .inr (.inl ⟨rfl, rfl, h.symm⟩)
    | true =>
      simp only [hf, if_true] at h
      cases hd : decode (fetchOpcode s) with
      | error e => simp [hd] at h; exact .inr (.inr (.inl ⟨rfl, rfl, ⟨e, rfl⟩, h.symm⟩))
      | ok i => simp only [hd] at h; exact .inr (.inr (.inr ⟨rfl, rfl, i, rfl, h⟩))

/-- A cycle is halted exactly when a fault is recorded (R156). -/
theorem halted_iff (s : State) : halted s = true ↔ s.fault ≠ .none := by simp [halted]

theorem halted_eq_false_iff (s : State) : halted s = false ↔ s.fault = .none := by simp [halted]

/-- The fetch check (R45). -/
theorem fetchInRange_iff (s : State) : fetchInRange s = true ↔ s.pc.toNat ≤ 0xFFE := by simp [fetchInRange]

/-- R40, R81: the fetched word, as a number. -/
theorem fetchOpcode_toNat (s : State) :
    (fetchOpcode s).toNat =
      256 * (readByte s.mem s.pc.toNat).toNat + (readByte s.mem (s.pc.toNat + 1)).toNat := by
  have h : (readByte s.mem (s.pc.toNat + 1)).toNat < 2 ^ 8 := BitVec.isLt _
  have h0 : (readByte s.mem s.pc.toNat).toNat < 2 ^ 8 := BitVec.isLt _
  simp only [fetchOpcode, opcodeOfBytes, BitVec.toNat_or, BitVec.toNat_shiftLeft, BitVec.toNat_setWidth]
  rw [Nat.mod_eq_of_lt (by omega : (readByte s.mem s.pc.toNat).toNat < 2 ^ 16),
    Nat.mod_eq_of_lt (by omega : (readByte s.mem (s.pc.toNat + 1)).toNat < 2 ^ 16),
    Nat.mod_eq_of_lt (by rw [Nat.shiftLeft_eq]; omega), ← Nat.shiftLeft_add_eq_or_of_lt h, Nat.shiftLeft_eq,
    Nat.mul_comm]

/-- What a raised fault answers (R152). -/
theorem raise_eq (f : FaultStatus) (s : State) : raise f s = .next (takeFault f (s.pc - 2) s) := rfl

/-- The range check of a data access (R46). -/
theorem dataInRange_iff (s : State) (m : Nat) : dataInRange s m = true ↔ s.i.toNat + m ≤ 0xFFF := decide_eq_true_iff

/-- The range check of a sprite (R46): nothing is checked when `n = 0`. -/
theorem spriteInRange_iff (s : State) (n : Nibble) :
    spriteInRange s n = true ↔ n.toNat = 0 ∨ s.i.toNat + (n.toNat - 1) ≤ 0xFFF := by
  rw [spriteInRange, Bool.or_eq_true, dataInRange_iff, decide_eq_true_iff]

/-- Everything a checked store can answer (R46): all of it, or a fault and none of it. -/
theorem storeAtI_cases (s : State) (m : Nat) (ws : List Byte) :
    (s.i.toNat + m ≤ 0xFFF ∧ storeAtI s m ws = .next (setMem s (writeBytes s.mem s.i.toNat ws))) ∨
      (0xFFF < s.i.toNat + m ∧ storeAtI s m ws = .next (takeFault .dataAddressOutOfRange (s.pc - 2) s)) := by
  by_cases h : s.i.toNat + m ≤ 0xFFF
  · exact .inl ⟨h, by simp [storeAtI, dataInRange, dataAddr, h]⟩
  · exact .inr ⟨by omega, by simp [storeAtI, dataInRange, dataAddr, h, raise_eq]⟩

end Sys2Proof.Machine
end

