-- ==== Sys2Proof/Laws/Exec.lean ====
section
/-! SUPPORT. What one instruction can answer, said once for all 34: a next state always, no event, and either `FAULT`
as it was or one of the faults under its stated cause. -/

namespace Sys2Proof.Machine

/-- Everything `exec` says about faults and events (R151 to R163, R158). -/
theorem exec_cases (i : Instr) (s : State) : ∃ t, exec i s = .next t ∧ t.log = s.log ∧
    (t.fault = s.fault ∨ ∃ f, t = takeFault f (s.pc - 2) s ∧ f ≠ .none ∧
      ((f = .stackOverflow ∧ s.sp.val = 16 ∧ ∃ n, i = .callAddr n) ∨
        (f = .stackUnderflow ∧ s.sp.val = 0 ∧ i = .ret) ∨
        (f = .dataAddressOutOfRange ∧
          ((∃ x y n, i = .drwVxVyNibble x y n ∧ 1 ≤ n.toNat ∧ 0xFFF < s.i.toNat + n.toNat - 1) ∨
            (∃ x, i = .ldBVx x ∧ 0xFFF < s.i.toNat + 2) ∨
            (∃ x, i = .ldMemIVx x ∧ 0xFFF < s.i.toNat + x.val) ∨
            (∃ x, i = .ldVxMemI x ∧ 0xFFF < s.i.toNat + x.val))) ∨
        (f = .keyIndexOutOfRange ∧ ∃ x, (i = .skpVx x ∨ i = .sknpVx x) ∧ 15 < (readV s x).toNat))) := by
  cases i
  case ret =>
    rcases popReturn_cases s with ⟨h, e⟩ | ⟨h, e⟩
    · exact ⟨_, (by simp only [exec, execRet, e]; rfl), by simp,
        by exact .inl rfl⟩
    · exact ⟨_, (by simp only [exec, execRet, e]; rfl), by simp,
        by exact .inr ⟨_, rfl, by decide, .inr (.inl ⟨rfl, h, rfl⟩)⟩⟩
  case callAddr n =>
    rcases pushReturn_cases s s.pc with ⟨h, e⟩ | ⟨h, e⟩
    · exact ⟨_, (by simp only [exec, execCallAddr, e]; rfl), by simp,
        by exact .inl rfl⟩
    · exact ⟨_, (by simp only [exec, execCallAddr, e]; rfl), by simp,
        by exact .inr ⟨_, rfl, by decide, .inl ⟨rfl, h, _, rfl⟩⟩⟩
  case ldBVx x =>
    rcases storeAtI_cases s 2 (bcdDigits (readV s x)) with ⟨h, e⟩ | ⟨h, e⟩
    · exact ⟨_, e, rfl, .inl rfl⟩
    · exact ⟨_, e, rfl, .inr ⟨_, rfl, by decide,
        .inr (.inr (.inl ⟨rfl, .inr (.inl ⟨x, rfl, h⟩)⟩))⟩⟩
  case ldMemIVx x =>
    rcases storeAtI_cases s x.val (regsUpTo s x) with ⟨h, e⟩ | ⟨h, e⟩
    · exact ⟨_, e, rfl, .inl rfl⟩
    · exact ⟨_, e, rfl, .inr ⟨_, rfl, by decide,
        .inr (.inr (.inl ⟨rfl, .inr (.inr (.inl ⟨x, rfl, h⟩))⟩))⟩⟩
  case ldVxMemI x =>
    by_cases h : dataInRange s x.val = true
    · exact ⟨_, (by simp only [exec, execLdVxMemI, h, if_true]; rfl), by simp,
        by exact .inl rfl⟩
    · exact ⟨_, (by simp only [exec, execLdVxMemI, h, Bool.false_eq_true, if_false]; rfl), by rfl,
        by refine .inr ⟨_, rfl, by decide, .inr (.inr (.inl ⟨rfl, .inr (.inr (.inr ⟨x, rfl, ?_⟩))⟩))⟩
           rw [dataInRange_iff] at h; omega⟩
  case drwVxVyNibble x y n =>
    by_cases h : spriteInRange s n = true
    · exact ⟨_, (by simp only [exec, execDrwVxVyNibble, h, if_true]; rfl), by simp,
        by exact .inl rfl⟩
    · exact ⟨_, (by simp only [exec, execDrwVxVyNibble, h, Bool.false_eq_true, if_false]; rfl), by rfl,
        by refine .inr ⟨_, rfl, by decide, .inr (.inr (.inl ⟨rfl, .inl ⟨x, y, n, rfl, ?_⟩⟩))⟩
           rw [spriteInRange_iff] at h; omega⟩
  case skpVx x =>
    rcases keyIndex_cases (readV s x) with ⟨k, h, e⟩ | ⟨h, e⟩
    · exact ⟨_, (by simp only [exec, execSkpVx, e]; rfl), by simp,
        by exact .inl (by simp)⟩
    · exact ⟨_, (by simp only [exec, execSkpVx, e]; rfl), by simp,
        by exact .inr ⟨_, rfl, by decide, .inr (.inr (.inr ⟨rfl, x, .inl rfl, h⟩))⟩⟩
  case sknpVx x =>
    rcases keyIndex_cases (readV s x) with ⟨k, h, e⟩ | ⟨h, e⟩
    · exact ⟨_, (by simp only [exec, execSknpVx, e]; rfl), by simp,
        by exact .inl (by simp)⟩
    · exact ⟨_, (by simp only [exec, execSknpVx, e]; rfl), by simp,
        by exact .inr ⟨_, rfl, by decide, .inr (.inr (.inr ⟨rfl, x, .inr rfl, h⟩))⟩⟩
  case ldVxK x =>
    cases e : lowestKeyDown s with
    | none => exact ⟨_, (by simp only [exec, execLdVxK, e]; rfl), by simp,
        by exact .inl (by simp)⟩
    | some k => exact ⟨_, (by simp only [exec, execLdVxK, e]; rfl), by simp,
        by exact .inl (by simp)⟩
  all_goals exact ⟨_, rfl, by simp, .inl (by simp)⟩

end Sys2Proof.Machine
end

