-- ==== Sys2Proof/Laws/Memory.lean ====
section
/-! SUPPORT. The laws of memory: a read after a write (unconditionally, in every state), and that every memory
operation keeps the canonical form. -/

namespace Sys2Proof.Machine

theorem readByte_eraseCell_same (m : Memory) (a : Nat) : readByte (eraseCell a m) a = memDefault a := by
  induction m with
  | nil => rfl
  | cons c m ih =>
    obtain ⟨b, w⟩ := c
    by_cases h : a = b <;> simp [eraseCell, readByte, h] <;> simpa [h] using ih

theorem readByte_eraseCell_other (m : Memory) {a b : Nat} (h : b ≠ a) :
    readByte (eraseCell a m) b = readByte m b := by
  induction m with
  | nil => rfl
  | cons c m ih =>
    obtain ⟨d, w⟩ := c
    by_cases h1 : a = d
    · subst h1; simp [eraseCell, readByte, h, ih]
    · by_cases h2 : b = d <;> simp [eraseCell, readByte, h1, h2, ih]

/-- Reading after an insertion: the inserted byte there, and as before elsewhere, if no entry for the place stands. -/
theorem readByte_insertCell (m : Memory) (a : Nat) (w : Byte) (b : Nat) :
    readByte (insertCell a w (eraseCell a m)) b = if b = a then w else readByte m b := by
  induction m with
  | nil => by_cases h : b = a <;> simp [eraseCell, insertCell, readByte, h]
  | cons c m ih =>
    obtain ⟨d, u⟩ := c
    by_cases h1 : a = d
    · subst h1
      by_cases h : b = a
      · simpa [eraseCell, h] using ih
      · simpa [eraseCell, readByte, h] using ih
    · by_cases h2 : a < d
      · by_cases h : b = a
        · simp [eraseCell, h1, insertCell, h2, readByte, h]
        · by_cases h3 : b = d
          · simp [eraseCell, h1, insertCell, h2, readByte, h3, Ne.symm h1]
          · simp [eraseCell, h1, insertCell, h2, readByte, h, h3, readByte_eraseCell_other m h]
      · by_cases h3 : b = d
        · simp [eraseCell, h1, insertCell, h2, readByte, h3, Ne.symm h1]
        · simpa [eraseCell, h1, insertCell, h2, readByte, h3] using ih

/-- One spec of a byte write: the byte there, every other byte as before. -/
theorem readByte_writeByte (m : Memory) (a : Nat) (w : Byte) (b : Nat) :
    readByte (writeByte m a w) b = if b = a then w else readByte m b := by
  unfold writeByte
  split
  · next h =>
    by_cases hb : b = a
    · simp [hb, readByte_eraseCell_same, h]
    · simp [hb, readByte_eraseCell_other m hb]
  · exact readByte_insertCell m a w b

@[simp] theorem readByte_writeByte_same (m : Memory) (a : Nat) (w : Byte) :
    readByte (writeByte m a w) a = w := by simp [readByte_writeByte]

theorem readByte_writeByte_other (m : Memory) {a b : Nat} (w : Byte) (h : b ≠ a) :
    readByte (writeByte m a w) b = readByte m b := by simp [readByte_writeByte, h]

/-- One spec of a block write: byte `k` of the block at `a + k`, every byte outside the block as before. -/
theorem readByte_writeBytes (m : Memory) (a : Nat) (ws : List Byte) (b : Nat) :
    readByte (writeBytes m a ws) b =
      if h : a ≤ b ∧ b - a < ws.length then ws[b - a]'h.2 else readByte m b := by
  induction ws generalizing m a with
  | nil => simp [writeBytes]
  | cons w ws ih =>
    rw [writeBytes, ih, readByte_writeByte]
    by_cases h : b = a
    · subst h; simp
    · by_cases h2 : a + 1 ≤ b
      · obtain ⟨d, rfl⟩ : ∃ d, b = a + 1 + d := ⟨b - (a + 1), by omega⟩
        have e1 : a + 1 + d - (a + 1) = d := by omega
        have e2 : a + 1 + d - a = d + 1 := by omega
        simp [e1, e2, h]
        by_cases h3 : d < ws.length <;> simp [h3]
        intro hle; omega
      · have h3 : ¬ (a ≤ b) := by omega
        simp [h, h2, h3]

theorem readByte_writeBytes_at (m : Memory) (a : Nat) (ws : List Byte) (k : Nat) (h : k < ws.length) :
    readByte (writeBytes m a ws) (a + k) = ws[k] := by
  rw [readByte_writeBytes]; simp [h]

theorem readByte_writeBytes_outside (m : Memory) (a : Nat) (ws : List Byte) (b : Nat)
    (h : b < a ∨ a + ws.length ≤ b) : readByte (writeBytes m a ws) b = readByte m b := by
  rw [readByte_writeBytes, dif_neg (by omega)]

/-! The canonical form. -/

theorem memWfFrom_mono {lo lo' : Nat} {m : Memory} (h : memWfFrom lo m) (hl : lo' ≤ lo) : memWfFrom lo' m := by
  cases m with
  | nil => rfl
  | cons c m =>
    simp only [memWfFrom, Bool.and_eq_true, decide_eq_true_eq] at h ⊢
    exact ⟨⟨⟨by omega, h.1.1.2⟩, h.1.2⟩, h.2⟩

theorem eraseCell_wfFrom {lo : Nat} {m : Memory} (a : Nat) (h : memWfFrom lo m) : memWfFrom lo (eraseCell a m) := by
  induction m generalizing lo with
  | nil => rfl
  | cons c m ih =>
    obtain ⟨b, w⟩ := c
    simp only [memWfFrom, Bool.and_eq_true, decide_eq_true_eq] at h
    unfold eraseCell
    split
    · exact memWfFrom_mono (ih h.2) (by omega)
    · simp only [memWfFrom, Bool.and_eq_true, decide_eq_true_eq]
      exact ⟨h.1, ih h.2⟩

/-- After an erasure no entry for the place stands. -/
theorem mem_eraseCell {m : Memory} {a : Nat} {c : Host.Cell} (h : c ∈ eraseCell a m) : c.1 ≠ a := by
  induction m with
  | nil => cases h
  | cons d m ih =>
    obtain ⟨b, w⟩ := d
    unfold eraseCell at h
    split at h
    · exact ih h
    · rcases List.mem_cons.mp h with rfl | h'
      · exact Ne.symm ‹_›
      · exact ih h'

theorem insertCell_wfFrom {lo : Nat} {m : Memory} {a : Nat} {w : Byte} (h : memWfFrom lo m) (hlo : lo ≤ a)
    (ha : a < Config.memSize) (hw : w ≠ memDefault a) (hm : ∀ c ∈ m, c.1 ≠ a) :
    memWfFrom lo (insertCell a w m) := by
  induction m generalizing lo with
  | nil => simp [insertCell, memWfFrom, hlo, ha, hw]
  | cons c m ih =>
    obtain ⟨b, u⟩ := c
    have hb : b ≠ a := hm (b, u) (by simp)
    simp only [memWfFrom, Bool.and_eq_true, decide_eq_true_eq] at h
    unfold insertCell
    split
    · simp only [memWfFrom, Bool.and_eq_true, decide_eq_true_eq]
      exact ⟨⟨⟨hlo, ha⟩, by simpa using hw⟩, ⟨⟨by omega, h.1.1.2⟩, h.1.2⟩, h.2⟩
    · simp only [memWfFrom, Bool.and_eq_true, decide_eq_true_eq]
      exact ⟨h.1, ih h.2 (by omega) fun c hc => hm c (List.mem_cons_of_mem _ hc)⟩

/-- A byte write inside memory keeps the canonical form. -/
theorem writeByte_wf {m : Memory} {a : Nat} (w : Byte) (h : memWf m) (ha : a < Config.memSize) :
    memWf (writeByte m a w) := by
  unfold writeByte
  split
  · exact eraseCell_wfFrom a h
  · exact insertCell_wfFrom (eraseCell_wfFrom a h) (Nat.zero_le _) ha ‹_› fun _ hc => mem_eraseCell hc

/-- A block write inside memory keeps the canonical form. -/
theorem writeBytes_wf {m : Memory} {a : Nat} {ws : List Byte} (h : memWf m) (ha : a + ws.length ≤ Config.memSize) :
    memWf (writeBytes m a ws) := by
  induction ws generalizing m a with
  | nil => exact h
  | cons w ws ih =>
    have : a + (ws.length + 1) ≤ Config.memSize := by simpa using ha
    exact ih (writeByte_wf w h (by omega)) (by omega)

/-- The memory of the reset state is in the canonical form. -/
theorem reset_memWf : memWf State.reset.mem := rfl

/-- A read of a block, byte by byte. -/
theorem getElem_readBytes (m : Memory) (a n k : Nat) (h : k < (readBytes m a n).length) :
    (readBytes m a n)[k] = readByte m (a + k) := by simp [readBytes]

@[simp] theorem length_readBytes (m : Memory) (a n : Nat) : (readBytes m a n).length = n := by simp [readBytes]

end Sys2Proof.Machine
end

