-- ==== Sys2Proof/Laws/Frames.lean ====
section
/-! SUPPORT. What each shared update leaves unchanged, once for each, and how frames compose. -/

namespace Sys2Proof.Machine

theorem unchanged_refl (s : State) (p : Piece) : Unchanged s s p := by
  cases p <;> simp [Unchanged]

theorem unchanged_trans {s t u : State} {p : Piece} (h : Unchanged s t p) (k : Unchanged t u p) :
    Unchanged s u p := by
  cases p <;> simp_all [Unchanged]

theorem onlyChanges_refl (ps : List Piece) (s : State) : OnlyChanges ps s s := fun p _ => unchanged_refl s p

/-- Frames compose: both changes stay within the same pieces. -/
theorem onlyChanges_trans {ps : List Piece} {s t u : State} (h : OnlyChanges ps s t) (k : OnlyChanges ps t u) :
    OnlyChanges ps s u := fun p hp => unchanged_trans (h p hp) (k p hp)

theorem onlyChanges_mono {ps qs : List Piece} {s t : State} (h : OnlyChanges ps s t) (hs : ps ⊆ qs) :
    OnlyChanges qs s t := fun p hp => h p fun hq => hp (hs hq)

theorem onlyChanges_writeV (s : State) (x : Reg) (b : Byte) : OnlyChanges [.v] s (writeV s x b) := by
  intro p hp; cases p <;> simp_all [Unchanged, keyDown]

theorem onlyChanges_setRegs (s : State) (v : Vector Byte 16) : OnlyChanges [.v] s (setRegs s v) := by
  intro p hp; cases p <;> simp_all [Unchanged, keyDown]

theorem onlyChanges_writeFlagThenV (s : State) (c : Bool) (x : Reg) (b : Byte) :
    OnlyChanges [.v] s (writeFlagThenV s c x b) :=
  onlyChanges_trans (onlyChanges_writeV s _ _) (onlyChanges_writeV _ _ _)

theorem onlyChanges_setI (s : State) (w : Word) : OnlyChanges [.i] s (setI s w) := by
  intro p hp; cases p <;> simp_all [Unchanged, keyDown, readV]

theorem onlyChanges_setPc (s : State) (w : Word) : OnlyChanges [.pc] s (setPc s w) := by
  intro p hp; cases p <;> simp_all [Unchanged, keyDown, readV]

theorem onlyChanges_skipIf (c : Bool) (s : State) : OnlyChanges [.pc] s (skipIf c s) := by
  intro p hp; cases p <;> simp_all [Unchanged, keyDown, readV]

theorem onlyChanges_setDt (s : State) (b : Byte) : OnlyChanges [.dt] s (setDt s b) := by
  intro p hp; cases p <;> simp_all [Unchanged, keyDown, readV]

theorem onlyChanges_setSt (s : State) (b : Byte) : OnlyChanges [.st] s (setSt s b) := by
  intro p hp; cases p <;> simp_all [Unchanged, keyDown, readV]

theorem onlyChanges_setMem (s : State) (m : Memory) : OnlyChanges [.mem] s (setMem s m) := by
  intro p hp; cases p <;> simp_all [Unchanged, keyDown, readV]

theorem onlyChanges_setDisp (s : State) (d : Display) : OnlyChanges [.disp, .dirty] s (setDisp s d) := by
  intro p hp; cases p <;> simp_all [Unchanged, keyDown, readV]

theorem onlyChanges_nextDraw (s : State) : OnlyChanges [.draws] s (nextDraw s) := by
  intro p hp; cases p <;> simp_all [Unchanged, keyDown, readV]

theorem onlyChanges_takeFault (f : FaultStatus) (w : Word) (s : State) :
    OnlyChanges [.pc, .fault] s (takeFault f w s) := by
  intro p hp; cases p <;> simp_all [Unchanged, keyDown, readV]

theorem onlyChanges_skipUnknown (op : Word) (s : State) : OnlyChanges [.pc, .log] s (skipUnknown op s) := by
  intro p hp; cases p <;> simp_all [Unchanged, keyDown, readV]

theorem onlyChanges_fetchFault (s : State) : OnlyChanges [.fault] s (fetchFault s) := by
  intro p hp; cases p <;> simp_all [Unchanged, keyDown, readV]

end Sys2Proof.Machine
end

