-- ==== Sys2Proof/Laws/PerInstr.lean ====
section
/-! SUPPORT. The per-instruction family `EncodingRow`: the word of an instruction matches the row of R65 the
instruction belongs to, so the encoder and the opcode map agree on every fixed bit. -/

namespace Sys2Proof.Laws

/-- The encoded word matches the mask and match of the instruction's row (R65). -/
def EncodingRow.Statement (i : Instr) : Prop := i.row.covers (encode i) = true

/-- The top nibble of a word of format A. -/
theorem formatA_top (f : Nibble) (nnn : Addr) : formatA f nnn &&& 0xF000 = formatA f 0 := by
  apply BitVec.eq_of_getLsbD_eq
  intro k hk
  simp only [formatA, BitVec.getLsbD_and, BitVec.getLsbD_or, BitVec.getLsbD_shiftLeft,
    BitVec.getLsbD_setWidth]
  interval_cases k <;> simp

/-- The top nibble of a word of format XK. -/
theorem formatXK_top (f : Nibble) (x : Reg) (kk : Byte) : formatXK f x kk &&& 0xF000 = formatXK f 0 0 := by
  apply BitVec.eq_of_getLsbD_eq
  intro k hk
  simp only [formatXK, regBits, BitVec.getLsbD_and, BitVec.getLsbD_or, BitVec.getLsbD_shiftLeft,
    BitVec.getLsbD_setWidth]
  interval_cases k <;> simp

/-- The top nibble and the low byte of a word of format X. -/
theorem formatX_fixed (f : Nibble) (x : Reg) (kk : Byte) : formatXK f x kk &&& 0xF0FF = formatXK f 0 kk := by
  apply BitVec.eq_of_getLsbD_eq
  intro k hk
  simp only [formatXK, regBits, BitVec.getLsbD_and, BitVec.getLsbD_or, BitVec.getLsbD_shiftLeft,
    BitVec.getLsbD_setWidth]
  interval_cases k <;> simp

/-- The top and the low nibble of a word of format XY. -/
theorem formatXY_fixed (f : Nibble) (x y : Reg) (n : Nibble) :
    formatXYN f x y n &&& 0xF00F = formatXYN f 0 0 n := by
  apply BitVec.eq_of_getLsbD_eq
  intro k hk
  simp only [formatXYN, regBits, BitVec.getLsbD_and, BitVec.getLsbD_or, BitVec.getLsbD_shiftLeft,
    BitVec.getLsbD_setWidth]
  interval_cases k <;> simp

/-- The top nibble of a word of format XYN. -/
theorem formatXYN_top (f : Nibble) (x y : Reg) (n : Nibble) :
    formatXYN f x y n &&& 0xF000 = formatXYN f 0 0 0 := by
  apply BitVec.eq_of_getLsbD_eq
  intro k hk
  simp only [formatXYN, regBits, BitVec.getLsbD_and, BitVec.getLsbD_or, BitVec.getLsbD_shiftLeft,
    BitVec.getLsbD_setWidth]
  interval_cases k <;> simp

theorem EncodingRow.cls : EncodingRow.Statement .cls := by
  unfold EncodingRow.Statement; decide

theorem EncodingRow.ret : EncodingRow.Statement .ret := by
  unfold EncodingRow.Statement; decide

theorem EncodingRow.jpAddr (nnn : Addr) : EncodingRow.Statement (.jpAddr nnn) := by
  simp only [EncodingRow.Statement, Instr.row, OpcodeRow.covers, encode, formatA_top]; decide

theorem EncodingRow.callAddr (nnn : Addr) : EncodingRow.Statement (.callAddr nnn) := by
  simp only [EncodingRow.Statement, Instr.row, OpcodeRow.covers, encode, formatA_top]; decide

theorem EncodingRow.seVxByte (x : Reg) (kk : Byte) : EncodingRow.Statement (.seVxByte x kk) := by
  simp only [EncodingRow.Statement, Instr.row, OpcodeRow.covers, encode, formatXK_top]; decide

theorem EncodingRow.sneVxByte (x : Reg) (kk : Byte) : EncodingRow.Statement (.sneVxByte x kk) := by
  simp only [EncodingRow.Statement, Instr.row, OpcodeRow.covers, encode, formatXK_top]; decide

theorem EncodingRow.seVxVy (x : Reg) (y : Reg) : EncodingRow.Statement (.seVxVy x y) := by
  simp only [EncodingRow.Statement, Instr.row, OpcodeRow.covers, encode, formatXY_fixed]; decide

theorem EncodingRow.ldVxByte (x : Reg) (kk : Byte) : EncodingRow.Statement (.ldVxByte x kk) := by
  simp only [EncodingRow.Statement, Instr.row, OpcodeRow.covers, encode, formatXK_top]; decide

theorem EncodingRow.addVxByte (x : Reg) (kk : Byte) : EncodingRow.Statement (.addVxByte x kk) := by
  simp only [EncodingRow.Statement, Instr.row, OpcodeRow.covers, encode, formatXK_top]; decide

theorem EncodingRow.ldVxVy (x : Reg) (y : Reg) : EncodingRow.Statement (.ldVxVy x y) := by
  simp only [EncodingRow.Statement, Instr.row, OpcodeRow.covers, encode, formatXY_fixed]; decide

theorem EncodingRow.orVxVy (x : Reg) (y : Reg) : EncodingRow.Statement (.orVxVy x y) := by
  simp only [EncodingRow.Statement, Instr.row, OpcodeRow.covers, encode, formatXY_fixed]; decide

theorem EncodingRow.andVxVy (x : Reg) (y : Reg) : EncodingRow.Statement (.andVxVy x y) := by
  simp only [EncodingRow.Statement, Instr.row, OpcodeRow.covers, encode, formatXY_fixed]; decide

theorem EncodingRow.xorVxVy (x : Reg) (y : Reg) : EncodingRow.Statement (.xorVxVy x y) := by
  simp only [EncodingRow.Statement, Instr.row, OpcodeRow.covers, encode, formatXY_fixed]; decide

theorem EncodingRow.addVxVy (x : Reg) (y : Reg) : EncodingRow.Statement (.addVxVy x y) := by
  simp only [EncodingRow.Statement, Instr.row, OpcodeRow.covers, encode, formatXY_fixed]; decide

theorem EncodingRow.subVxVy (x : Reg) (y : Reg) : EncodingRow.Statement (.subVxVy x y) := by
  simp only [EncodingRow.Statement, Instr.row, OpcodeRow.covers, encode, formatXY_fixed]; decide

theorem EncodingRow.shrVx (x : Reg) (y : Reg) : EncodingRow.Statement (.shrVx x y) := by
  simp only [EncodingRow.Statement, Instr.row, OpcodeRow.covers, encode, formatXY_fixed]; decide

theorem EncodingRow.subnVxVy (x : Reg) (y : Reg) : EncodingRow.Statement (.subnVxVy x y) := by
  simp only [EncodingRow.Statement, Instr.row, OpcodeRow.covers, encode, formatXY_fixed]; decide

theorem EncodingRow.shlVx (x : Reg) (y : Reg) : EncodingRow.Statement (.shlVx x y) := by
  simp only [EncodingRow.Statement, Instr.row, OpcodeRow.covers, encode, formatXY_fixed]; decide

theorem EncodingRow.sneVxVy (x : Reg) (y : Reg) : EncodingRow.Statement (.sneVxVy x y) := by
  simp only [EncodingRow.Statement, Instr.row, OpcodeRow.covers, encode, formatXY_fixed]; decide

theorem EncodingRow.ldIAddr (nnn : Addr) : EncodingRow.Statement (.ldIAddr nnn) := by
  simp only [EncodingRow.Statement, Instr.row, OpcodeRow.covers, encode, formatA_top]; decide

theorem EncodingRow.jpV0Addr (nnn : Addr) : EncodingRow.Statement (.jpV0Addr nnn) := by
  simp only [EncodingRow.Statement, Instr.row, OpcodeRow.covers, encode, formatA_top]; decide

theorem EncodingRow.rndVxByte (x : Reg) (kk : Byte) : EncodingRow.Statement (.rndVxByte x kk) := by
  simp only [EncodingRow.Statement, Instr.row, OpcodeRow.covers, encode, formatXK_top]; decide

theorem EncodingRow.drwVxVyNibble (x : Reg) (y : Reg) (n : Nibble) : EncodingRow.Statement (.drwVxVyNibble x y n) := by
  simp only [EncodingRow.Statement, Instr.row, OpcodeRow.covers, encode, formatXYN_top]; decide

theorem EncodingRow.skpVx (x : Reg) : EncodingRow.Statement (.skpVx x) := by
  simp only [EncodingRow.Statement, Instr.row, OpcodeRow.covers, encode, formatX_fixed]; decide

theorem EncodingRow.sknpVx (x : Reg) : EncodingRow.Statement (.sknpVx x) := by
  simp only [EncodingRow.Statement, Instr.row, OpcodeRow.covers, encode, formatX_fixed]; decide

theorem EncodingRow.ldVxDt (x : Reg) : EncodingRow.Statement (.ldVxDt x) := by
  simp only [EncodingRow.Statement, Instr.row, OpcodeRow.covers, encode, formatX_fixed]; decide

theorem EncodingRow.ldVxK (x : Reg) : EncodingRow.Statement (.ldVxK x) := by
  simp only [EncodingRow.Statement, Instr.row, OpcodeRow.covers, encode, formatX_fixed]; decide

theorem EncodingRow.ldDtVx (x : Reg) : EncodingRow.Statement (.ldDtVx x) := by
  simp only [EncodingRow.Statement, Instr.row, OpcodeRow.covers, encode, formatX_fixed]; decide

theorem EncodingRow.ldStVx (x : Reg) : EncodingRow.Statement (.ldStVx x) := by
  simp only [EncodingRow.Statement, Instr.row, OpcodeRow.covers, encode, formatX_fixed]; decide

theorem EncodingRow.addIVx (x : Reg) : EncodingRow.Statement (.addIVx x) := by
  simp only [EncodingRow.Statement, Instr.row, OpcodeRow.covers, encode, formatX_fixed]; decide

theorem EncodingRow.ldFVx (x : Reg) : EncodingRow.Statement (.ldFVx x) := by
  simp only [EncodingRow.Statement, Instr.row, OpcodeRow.covers, encode, formatX_fixed]; decide

theorem EncodingRow.ldBVx (x : Reg) : EncodingRow.Statement (.ldBVx x) := by
  simp only [EncodingRow.Statement, Instr.row, OpcodeRow.covers, encode, formatX_fixed]; decide

theorem EncodingRow.ldMemIVx (x : Reg) : EncodingRow.Statement (.ldMemIVx x) := by
  simp only [EncodingRow.Statement, Instr.row, OpcodeRow.covers, encode, formatX_fixed]; decide

theorem EncodingRow.ldVxMemI (x : Reg) : EncodingRow.Statement (.ldVxMemI x) := by
  simp only [EncodingRow.Statement, Instr.row, OpcodeRow.covers, encode, formatX_fixed]; decide

end Sys2Proof.Laws
end

