-- ==== Sys2Proof/Tests/Slice0.lean ====
section
/-! SUPPORT. Tests of the model: ill-formed words, the decoding of words spelt from the patterns of R65, single steps
with the results of 95_test_vectors.md, and a witness for every statement that has hypotheses. -/

namespace Sys2Proof.Tests

open Sys2Proof.Machine

/-! Helpers. -/

/-- The reset state with some registers set. -/
def regs (rs : List (Reg × Byte)) : State := rs.foldl (fun s p => writeV s p.1 p.2) State.reset

/-- A state with `PC` moved. -/
def at_ (pc : Word) (s : State) : State := setPc s pc

/-- The state after one step on the word `w`, placed where `s` fetches. -/
def after (w : Word) (s : State) : Option State :=
  match step (placeWord s w) with
  | .next t => some t
  | _ => none

/-- A register and VF after one step. -/
def vAfter (w : Word) (s : State) (x : Reg) : Option (Byte × Byte) := (after w s).map fun t => (readV t x, readV t 15)

/-- `PC` after one step. -/
def pcAfter (w : Word) (s : State) : Option Word := (after w s).map (·.pc)

/-- `FAULT` and `PC` after one step. -/
def faultAfter (w : Word) (s : State) : Option (BitVec 3 × Word) := (after w s).map fun t => (faultCode t.fault, t.pc)

/-- A state with `SP` entries in use. -/
def withStack (n : Fin 17) (s : State) : State := { s with sp := n, stack := s.stack.set 15 0x1000 }

/-- A state with `KEY[k]` down. -/
def press (k : Fin 16) (s : State) : State := setKey k true s

/-! Ill-formed words, one for each check a family makes (R66, R67), and a well-formed neighbour of each. -/

theorem test_illFormed_family0 : wordWellFormed 0x00E1 = false ∧ wordWellFormed 0x00E0 = true := by decide
theorem test_illFormed_family0_top : wordWellFormed 0x01EE = false ∧ wordWellFormed 0x00EE = true := by decide
theorem test_illFormed_family5 : wordWellFormed 0x5341 = false ∧ wordWellFormed 0x5340 = true := by decide
theorem test_illFormed_family8 : wordWellFormed 0x8008 = false ∧ wordWellFormed 0x800E = true := by decide
theorem test_illFormed_family9 : wordWellFormed 0x934F = false ∧ wordWellFormed 0x9340 = true := by decide
theorem test_illFormed_familyE : wordWellFormed 0xE09F = false ∧ wordWellFormed 0xE09E = true := by decide
theorem test_illFormed_familyF : wordWellFormed 0xF075 = false ∧ wordWellFormed 0xF065 = true := by decide
theorem test_wellFormed_term : Instr.wellFormed (.drwVxVyNibble 1 2 0xF) = true := by decide

/-! Rejection is by name. -/

theorem test_reject_family0 : decode 0x0123 = .error .family0 := by decide
theorem test_reject_family5 : decode 0x500F = .error .family5 := by decide
theorem test_reject_family8 : decode 0x800D = .error .family8 := by decide
theorem test_reject_family9 : decode 0x9001 = .error .family9 := by decide
theorem test_reject_familyE : decode 0xE0A0 = .error .familyE := by decide
theorem test_reject_familyF : decode 0xF000 = .error .familyF := by decide

/-! Every constructor's decoding, on a word spelt digit by digit from its pattern (R5, R62, R65). -/

theorem test_decode_cls : decode 0b0000_0000_1110_0000 = .ok .cls := by decide
theorem test_decode_ret : decode 0b0000_0000_1110_1110 = .ok .ret := by decide
theorem test_decode_jpAddr : decode 0b0001_0010_0011_0100 = .ok (.jpAddr 0x234) := by decide
theorem test_decode_callAddr : decode 0b0010_1111_0000_0101 = .ok (.callAddr 0xF05) := by decide
theorem test_decode_seVxByte : decode 0b0011_0001_0010_1010 = .ok (.seVxByte 1 0x2A) := by decide
theorem test_decode_sneVxByte : decode 0b0100_0010_1000_0001 = .ok (.sneVxByte 2 0x81) := by decide
theorem test_decode_seVxVy : decode 0b0101_0011_0100_0000 = .ok (.seVxVy 3 4) := by decide
theorem test_decode_ldVxByte : decode 0b0110_1010_0011_0111 = .ok (.ldVxByte 10 0x37) := by decide
theorem test_decode_addVxByte : decode 0b0111_0000_0000_1010 = .ok (.addVxByte 0 0x0A) := by decide
theorem test_decode_ldVxVy : decode 0b1000_0001_0010_0000 = .ok (.ldVxVy 1 2) := by decide
theorem test_decode_orVxVy : decode 0b1000_0001_0010_0001 = .ok (.orVxVy 1 2) := by decide
theorem test_decode_andVxVy : decode 0b1000_0001_0010_0010 = .ok (.andVxVy 1 2) := by decide
theorem test_decode_xorVxVy : decode 0b1000_0001_0010_0011 = .ok (.xorVxVy 1 2) := by decide
theorem test_decode_addVxVy : decode 0b1000_0001_0010_0100 = .ok (.addVxVy 1 2) := by decide
theorem test_decode_subVxVy : decode 0b1000_0001_0010_0101 = .ok (.subVxVy 1 2) := by decide
theorem test_decode_shrVx : decode 0b1000_0001_0010_0110 = .ok (.shrVx 1 2) := by decide
theorem test_decode_subnVxVy : decode 0b1000_0001_0010_0111 = .ok (.subnVxVy 1 2) := by decide
theorem test_decode_shlVx : decode 0b1000_0001_0010_1110 = .ok (.shlVx 1 2) := by decide
theorem test_decode_sneVxVy : decode 0b1001_0001_0010_0000 = .ok (.sneVxVy 1 2) := by decide
theorem test_decode_ldIAddr : decode 0b1010_1000_0000_0001 = .ok (.ldIAddr 0x801) := by decide
theorem test_decode_jpV0Addr : decode 0b1011_0011_1111_0000 = .ok (.jpV0Addr 0x3F0) := by decide
theorem test_decode_rndVxByte : decode 0b1100_0001_0000_1111 = .ok (.rndVxByte 1 0x0F) := by decide
theorem test_decode_drwVxVyNibble : decode 0b1101_0001_0010_1111 = .ok (.drwVxVyNibble 1 2 15) := by decide
theorem test_decode_skpVx : decode 0b1110_0001_1001_1110 = .ok (.skpVx 1) := by decide
theorem test_decode_sknpVx : decode 0b1110_0001_1010_0001 = .ok (.sknpVx 1) := by decide
theorem test_decode_ldVxDt : decode 0b1111_0001_0000_0111 = .ok (.ldVxDt 1) := by decide
theorem test_decode_ldVxK : decode 0b1111_0001_0000_1010 = .ok (.ldVxK 1) := by decide
theorem test_decode_ldDtVx : decode 0b1111_0001_0001_0101 = .ok (.ldDtVx 1) := by decide
theorem test_decode_ldStVx : decode 0b1111_0001_0001_1000 = .ok (.ldStVx 1) := by decide
theorem test_decode_addIVx : decode 0b1111_0001_0001_1110 = .ok (.addIVx 1) := by decide
theorem test_decode_ldFVx : decode 0b1111_0001_0010_1001 = .ok (.ldFVx 1) := by decide
theorem test_decode_ldBVx : decode 0b1111_0001_0011_0011 = .ok (.ldBVx 1) := by decide
theorem test_decode_ldMemIVx : decode 0b1111_0001_0101_0101 = .ok (.ldMemIVx 1) := by decide
theorem test_decode_ldVxMemI : decode 0b1111_0001_0110_0101 = .ok (.ldVxMemI 1) := by decide

/-- The byte at the lower address is the high byte (R40), and the opcode table's number is the opcode. -/
theorem test_decode_bytes : decodeBytes 0x60 0x14 = .ok (.ldVxByte 0 0x14) := by decide
theorem test_decodeTableWord : decodeTableWord 16 0x6A37 = some (.ldVxByte 10 0x37) := by decide
theorem test_decodeTableWord_unknown : decodeTableWord 16 0xF075 = none := by decide
theorem test_encode : encode (.drwVxVyNibble 1 2 0xF) = 0xD12F := by decide

/-! Control transfer (95_test_vectors.md 2.2). -/

theorem test_ret : (after 0x00EE (at_ 0x300 (withStack 16 State.reset))).map (fun t => (t.pc, t.sp)) =
    some (0x1000, 15) := by decide
theorem test_ret_underflow : faultAfter 0x00EE (at_ 0x20C State.reset) = some (2, 0x20C) := by decide
theorem test_jpAddr : pcAfter 0x1204 (at_ 0x20A State.reset) = some 0x204 := by decide
theorem test_callAddr : (after 0x2300 (at_ 0xFFE { State.reset with sp := 15 })).map
    (fun t => (t.pc, t.sp, t.stack[15])) = some (0x300, 16, 0x1000) := by decide
theorem test_callAddr_overflow : faultAfter 0x2300 (at_ 0x204 (withStack 16 State.reset)) = some (1, 0x204) := by decide
theorem test_jpV0Addr : pcAfter 0xBFFF (regs [(0, 0xFF)]) = some 0x10FE := by decide
theorem test_seVxByte : pcAfter 0x3100 (at_ 0x208 (regs [(1, 0)])) = some 0x20C := by decide
theorem test_seVxByte_not : pcAfter 0x3100 (at_ 0x208 (regs [(1, 1)])) = some 0x20A := by decide
theorem test_sneVxByte : pcAfter 0x4206 (at_ 0x300 (regs [(2, 5)])) = some 0x304 := by decide
theorem test_sneVxByte_not : pcAfter 0x4205 (at_ 0x300 (regs [(2, 5)])) = some 0x302 := by decide
theorem test_seVxVy : pcAfter 0x5340 (at_ 0x210 (regs [(3, 0x7F), (4, 0x7F)])) = some 0x214 := by decide
theorem test_seVxVy_not : pcAfter 0x5340 (at_ 0x210 (regs [(3, 0x7F), (4, 0x7E)])) = some 0x212 := by decide
theorem test_sneVxVy : pcAfter 0x9340 (at_ 0x210 (regs [(3, 1), (4, 2)])) = some 0x214 := by decide
theorem test_sneVxVy_not : pcAfter 0x9340 (at_ 0x210 (regs [(3, 1), (4, 1)])) = some 0x212 := by decide

/-! Registers (95_test_vectors.md 2.3): the destination and VF. -/

theorem test_ldVxByte : vAfter 0x6A37 State.reset 10 = some (0x37, 0) := by decide
theorem test_addVxByte_wraps : vAfter 0x700A (regs [(0, 0xFA), (15, 1)]) 0 = some (0x04, 1) := by decide
theorem test_addVxByte_VF : vAfter 0x7F01 (regs [(15, 0xFF)]) 15 = some (0, 0) := by decide
theorem test_ldVxVy : vAfter 0x8010 (regs [(1, 0x2A)]) 0 = some (0x2A, 0) := by decide
theorem test_orVxVy : vAfter 0x8011 (regs [(0, 0xF0), (1, 0x0F), (15, 1)]) 0 = some (0xFF, 1) := by decide
theorem test_andVxVy : vAfter 0x8012 (regs [(0, 0xF3), (1, 0x3C), (15, 1)]) 0 = some (0x30, 1) := by decide
theorem test_xorVxVy : vAfter 0x8013 (regs [(0, 0xFF), (1, 0x0F), (15, 1)]) 0 = some (0xF0, 1) := by decide
theorem test_addVxVy_resultWins : vAfter 0x8F14 (regs [(15, 200), (1, 100)]) 15 = some (44, 44) := by decide
theorem test_addVxVy_oldVF : vAfter 0x80F4 (regs [(0, 0xFF), (15, 1)]) 0 = some (0, 1) := by decide
theorem test_subVxVy_borrow : vAfter 0x8015 (regs [(0, 3), (1, 5), (15, 1)]) 0 = some (0xFE, 0) := by decide
theorem test_subVxVy_equal : vAfter 0x8015 (regs [(0, 7), (1, 7)]) 0 = some (0, 1) := by decide
theorem test_shrVx : vAfter 0x8016 (regs [(0, 0x04), (1, 0xFF), (15, 1)]) 0 = some (0x02, 0) := by decide
theorem test_shrVx_VF : vAfter 0x8F06 (regs [(15, 0x07)]) 15 = some (3, 3) := by decide
theorem test_subnVxVy : vAfter 0x8017 (regs [(0, 3), (1, 5)]) 0 = some (2, 1) := by decide
theorem test_subnVxVy_borrow : vAfter 0x8017 (regs [(0, 5), (1, 3), (15, 1)]) 0 = some (0xFE, 0) := by decide
theorem test_shlVx : vAfter 0x801E (regs [(0, 0x40), (1, 0xFF), (15, 1)]) 0 = some (0x80, 0) := by decide
theorem test_shlVx_out : vAfter 0x800E (regs [(0, 0x81)]) 0 = some (2, 1) := by decide

/-- The draw is free; a mask of 0 fixes every bit, and the draw is consumed (95_test_vectors.md 2.3). -/
theorem test_rndVxByte_masked : ∃ t, exec (.rndVxByte 1 0x00) (regs [(1, 0x33)]) = .next t ∧ readV t 1 = 0 ∧
    t.draws = 1 := by
  refine ⟨_, rfl, ?_, rfl⟩
  show Config.rnd 0 &&& 0#8 = 0#8
  simp

/-! The index register and memory (95_test_vectors.md 2.4). -/

/-- A state with `I` set. -/
def index (w : Word) (s : State) : State := setI s w

/-- A state with bytes placed in memory. -/
def store (a : Nat) (bs : List Byte) (s : State) : State := setMem s (writeBytes s.mem a bs)

/-- Bytes of memory and `I` after one step. -/
def memAfter (w : Word) (s : State) (a n : Nat) : Option (List Byte × Word) :=
  (after w s).map fun t => (readBytes t.mem a n, t.i)

/-- `I` and VF after one step. -/
def indexAfter (w : Word) (s : State) : Option (Word × Byte) := (after w s).map fun t => (t.i, readV t 15)

theorem test_ldIAddr : indexAfter 0xA300 (index 0xFFFF State.reset) = some (0x300, 0) := by decide
theorem test_addIVx_above : indexAfter 0xF21E (index 0xFFFF (regs [(2, 1)])) = some (0, 1) := by decide
theorem test_addIVx_VF : indexAfter 0xFF1E (index 0x010 (regs [(15, 5)])) = some (0x15, 0) := by decide
theorem test_ldFVx : indexAfter 0xF029 (index 0x123 (regs [(0, 0xFF)])) = some (0x4FB, 0) := by decide
theorem test_ldBVx : memAfter 0xF333 (index 0x300 (regs [(3, 234)])) 0x300 3 = some ([2, 3, 4], 0x300) := by decide
theorem test_ldBVx_fault : (after 0xF333 (index 0xFFE (regs [(3, 9)]))).map
    (fun t => (faultCode t.fault, t.pc, readBytes t.mem 0xFFE 2)) = some (4, 0x200, [0, 0]) := by decide
theorem test_ldMemIVx : memAfter 0xF255 (index 0x300 (regs [(0, 1), (1, 2), (2, 3), (3, 4)])) 0x300 4 =
    some ([1, 2, 3, 0], 0x300) := by decide
theorem test_ldMemIVx_fault : faultAfter 0xF155 (index 0xFFF (regs [(0, 0xAA), (1, 0xBB)])) = some (4, 0x200) := by
  decide
theorem test_ldVxMemI : (after 0xF265 (index 0x300 (store 0x300 [2, 3, 4, 5] (regs [(3, 0x77)])))).map
    (fun t => (readV t 0, readV t 1, readV t 2, readV t 3, t.i)) = some (2, 3, 4, 0x77, 0x300) := by decide
theorem test_ldVxMemI_VF : vAfter 0xFF65 (index 0xFF0 (store 0xFFF [0x99] State.reset)) 14 = some (0, 0x99) := by decide

/-- A write of the reset contents leaves no entry, and entries stay in address order (R11). -/
theorem test_memory_canonical : writeBytes [(0x300, 7)] 0x2FF [1, 0] = [(0x2FF, 1)] := by decide

/-- The font is writable (R48): a listed byte is read back. -/
theorem test_font_is_writable : readByte [(0x000, 0x11)] 0 = 0x11 := by decide

/-! The display (95_test_vectors.md 2.5). -/

/-- A state with the cells at these columns and rows flipped. -/
def flip (ps : List CellPos) (s : State) : State := { s with disp := ps.foldl flipCell s.disp }

/-- Whether exactly these cells are on, VF, and `DIRTY` after one step. -/
def dispAfter (w : Word) (s : State) (ps : List CellPos) : Option (Bool × Byte × Bool) :=
  (after w s).map fun t => (t.disp == ps.foldl flipCell (Vector.replicate 32 0), readV t 15, t.dirty)

/-- `I`, `MEM[0x20A..0x20B] = C0 81`, `V1 = 62`, `V2 = 31`. -/
def corner : State := index 0x20A (store 0x20A [0xC0, 0x81] (regs [(1, 62), (2, 31)]))

/-- The four cells 2046, 2047, 62 and 5. -/
def cornerCells : List CellPos := [(62, 31), (63, 31), (62, 0), (5, 0)]

theorem test_cls : dispAfter 0x00E0 (flip [(0, 0), (1, 0), (63, 31)] State.reset) [] = some (true, 0, true) := by decide
theorem test_cls_blank : dispAfter 0x00E0 State.reset [] = some (true, 0, true) := by decide
theorem test_drw_wraps : dispAfter 0xD122 corner cornerCells = some (true, 0, true) := by decide
theorem test_drw_collides : dispAfter 0xD122 (flip cornerCells corner) [] = some (true, 1, true) := by decide
theorem test_drw_fault : (after 0xD12F (index 0xFF2 State.reset)).map
    (fun t => (faultCode t.fault, t.pc, t.dirty)) = some (4, 0x200, false) := by decide
theorem test_drw_no_rows : dispAfter 0xD120 (index 0xFFFF (regs [(15, 1)])) [] = some (true, 0, true) := by decide

/-- Cell `64 * r + c` is column `c` of row `r` (R133). -/
theorem test_cell : cellOn (flip [(5, 0)] State.reset).disp (5, 0) = true ∧
    cellOn (flip [(5, 0)] State.reset).disp (0, 5) = false := by decide

/-! Keypad and timers (95_test_vectors.md 2.6). -/

theorem test_skpVx : pcAfter 0xE19E (press 15 (regs [(1, 0xF)])) = some 0x204 := by decide
theorem test_skpVx_fault : faultAfter 0xE09E (press 0 (regs [(0, 16)])) = some (5, 0x200) := by decide
theorem test_sknpVx : pcAfter 0xE0A1 (regs [(0, 7)]) = some 0x204 := by decide
theorem test_sknpVx_down : pcAfter 0xE0A1 (press 7 (regs [(0, 7)])) = some 0x202 := by decide
theorem test_ldVxK_waits : (after 0xF30A (regs [(3, 0x55)])).map (fun t => (t.pc, readV t 3)) = some (0x200, 0x55) := by
  decide
theorem test_ldVxK : (after 0xF30A (press 12 (press 9 (regs [(3, 0x55)])))).map (fun t => (t.pc, readV t 3)) =
    some (0x202, 9) := by decide
theorem test_ldVxDt : vAfter 0xF107 { State.reset with dt := 0x3C } 1 = some (0x3C, 0) := by decide
theorem test_ldDtVx : (after 0xF015 (regs [(0, 7)])).map (fun t => (t.dt, t.st)) = some (7, 0) := by decide
theorem test_ldStVx : (after 0xF218 (regs [(2, 2)])).map (fun t => (t.dt, t.st)) = some (0, 2) := by decide

/-! The cycle (95_test_vectors.md 2.1). -/

theorem test_unknown : (after 0x5341 (at_ 0x210 (regs [(3, 0x7F), (4, 0x7F)]))).map (fun t => (t.pc, t.log)) =
    some (0x212, [⟨0x5341, 0x210⟩]) := by decide
theorem test_last_fetch : (after 0x6A55 (at_ 0xFFE State.reset)).map (fun t => (readV t 10, t.pc)) =
    some (0x55, 0x1000) := by decide
theorem test_odd_pc : (after 0x6B77 (at_ 0x201 State.reset)).map (fun t => (readV t 11, t.pc)) = some (0x77, 0x203) := by
  decide
theorem test_fetch_fault : ∃ t, step (at_ 0xFFF State.reset) = .next t ∧ faultCode t.fault = 3 ∧ t.pc = 0xFFF :=
  ⟨_, rfl, rfl, rfl⟩
theorem test_faulted_cycle : step { placeWord State.reset 0x6014 with fault := .stackUnderflow } =
    .next { placeWord State.reset 0x6014 with fault := .stackUnderflow } := rfl

/-- The first step after reset runs the placed table word. -/
theorem test_withFetchWord : (match step (State.reset.withFetchWord 16 0x6A37) with
    | .next t => some (readV t 10, t.pc)
    | _ => none) = some (0x37, 0x202) := by decide

/-! Host operations (95_test_vectors.md 2.6, 2.7). -/

theorem test_tick : (tickTimers { State.reset with dt := 0xFF, st := 2 }).1.dt = 0xFE ∧
    (tickTimers { State.reset with dt := 0xFF, st := 2 }).2 = false := by decide
theorem test_tick_tone : (tickTimers { State.reset with dt := 0, st := 1 }).1.dt = 0 ∧
    (tickTimers { State.reset with dt := 0, st := 1 }).2 = true := by decide
theorem test_reload : ∃ s t r, runSchedule [.loadProgram [0x60, 1, 0x60, 2, 0x60, 3], .cycle, .setKey 3 true,
      .loadProgram [0x12, 0x00]] State.reset = .next (t, r) ∧ s = readBytes t.mem 0x200 6 ∧
    s = [0x12, 0x00, 0x60, 0x02, 0x60, 0x03] ∧ readV t 0 = 0 ∧ keyDown t 3 = true := by
  exact ⟨_, _, _, rfl, rfl, by decide, by decide, by decide⟩
theorem test_load_leaves_fault : (loadProgram [0x12, 0x00] { State.reset with fault := .stackUnderflow, pc := 0x20C }).1.fault =
    .none := by decide
theorem test_take_dirty : (takeDirty { State.reset with dirty := true }).2 = true ∧
    (takeDirty { State.reset with dirty := true }).1.dirty = false := by decide

/-! Witnesses: for every statement with hypotheses, a state and operands that meet them, clause by clause, at the
boundary of each range. -/

theorem test_witness_CallPushesOrOverflows : (withStack 15 State.reset).sp.val < 16 ∧
    (withStack 16 State.reset).sp.val = 16 := by decide
theorem test_witness_ReturnPopsOrUnderflows : (withStack 16 State.reset).sp.val = (15 : Fin 16).val + 1 ∧
    (withStack 1 State.reset).sp.val = (0 : Fin 16).val + 1 ∧ State.reset.sp.val = 0 := by decide
theorem test_witness_ReturnUndoesCall : (withStack 15 State.reset).sp.val < 16 := by decide
theorem test_witness_AddStoresSumAndCarry : (14 : Reg) ≠ 15 := by decide
theorem test_witness_SubtractStoresDifferenceAndNoBorrow : (0 : Reg) ≠ 15 := by decide
theorem test_witness_ShiftsMoveOneBitIntoFlag : (1 : Reg) ≠ 15 := by decide
theorem test_witness_BcdStoresThreeDigits : dataAddr (index 0xFFD State.reset) 2 ≤ 0xFFF ∧
    0xFFF < dataAddr (index 0xFFE State.reset) 2 := by decide
theorem test_witness_BlockStoreCopiesRegisters : dataAddr (index 0xFF0 State.reset) (15 : Reg).val ≤ 0xFFF ∧
    0xFFF < dataAddr (index 0xFF1 State.reset) (15 : Reg).val := by decide
theorem test_witness_BlockLoadCopiesMemory : dataAddr (index 0xFFF State.reset) (0 : Reg).val ≤ 0xFFF ∧
    0xFFF < dataAddr (index 0x1000 State.reset) (0 : Reg).val := by decide
theorem test_witness_BlockStoreThenLoadRestores : ∃ t u, dataAddr (index 0xFF0 (regs [(3, 4)])) (15 : Reg).val ≤ 0xFFF ∧
    exec (.ldMemIVx 15) (index 0xFF0 (regs [(3, 4)])) = .next t ∧ Unchanged t u .mem ∧ u.i = 0xFF0 ∧ readV u 3 = 9 :=
  ⟨_, writeV (index 0xFF0 (store 0xFF0 (regsUpTo (regs [(3, 4)]) 15) (regs [(3, 4)]))) 3 9, by decide, rfl,
    fun _ => rfl, rfl, rfl⟩
theorem test_witness_StoredBytesAreFetched : ∃ t u, dataAddr (index 0x208 (regs [(0, 0x62), (1, 0x2A)])) 1 ≤ 0xFFF ∧
    exec (.ldMemIVx 1) (index 0x208 (regs [(0, 0x62), (1, 0x2A)])) = .next t ∧ (1 : Reg) ≤ 1 ∧
    (1 : Reg).val = (0 : Reg).val + 1 ∧ Unchanged t u .mem ∧
    u.pc.toNat = dataAddr (index 0x208 (regs [(0, 0x62), (1, 0x2A)])) (0 : Reg).val :=
  ⟨_, at_ 0x208 (store 0x208 [0x62, 0x2A] (regs [(0, 0x62), (1, 0x2A)])), by decide, rfl, by decide, by decide,
    fun _ => rfl, rfl⟩

/-- `n = 0` needs no address; 15 rows fit below 0xFFF from 0xFF1. -/
theorem test_witness_DrawInvertsTheCoveredCells : (∀ j < (0 : Nibble).toNat, dataAddr (index 0xFFFF State.reset) j ≤ 0xFFF) ∧
    (∀ j < (15 : Nibble).toNat, dataAddr (index 0xFF1 State.reset) j ≤ 0xFFF) := by decide
theorem test_witness_DrawInvertsTheCoveredCells_cells : SpriteCovers corner 1 2 2 (62, 31) ∧
    SpriteCovers corner 1 2 2 (5, 0) ∧ ¬ SpriteCovers corner 1 2 2 (0, 0) := by
  unfold SpriteCovers; decide
theorem test_witness_DrawInvertsTheCoveredCells_hit :
    (∃ p, SpriteCovers (flip cornerCells corner) 1 2 2 p ∧ cellOn (flip cornerCells corner).disp p = true) ∧
    ¬ ∃ p, SpriteCovers corner 1 2 2 p ∧ cellOn corner.disp p = true := by
  refine ⟨⟨(5, 0), ?_, by decide⟩, ?_⟩
  · unfold SpriteCovers; decide
  · rintro ⟨p, -, h⟩
    simp [corner, index, store, regs, setI, setMem, writeV, State.reset, Block.reset, cellOn] at h
theorem test_witness_DrawOutOfRangeFaults : 1 ≤ (15 : Nibble).toNat ∧
    0xFFF < dataAddr (index 0xFF2 State.reset) ((15 : Nibble).toNat - 1) ∧ 1 ≤ (1 : Nibble).toNat ∧
    0xFFF < dataAddr (index 0x1000 State.reset) ((1 : Nibble).toNat - 1) := by decide
theorem test_witness_DrawingTwiceRestoresTheDisplay : (1 : Reg) ≠ 15 ∧ (2 : Reg) ≠ 15 ∧
    (∀ j < (2 : Nibble).toNat, dataAddr corner j ≤ 0xFFF) ∧ ∀ p, cellOn corner.disp p = false := by
  refine ⟨by decide, by decide, by decide, fun p => ?_⟩
  simp [corner, index, store, regs, setI, setMem, writeV, State.reset, Block.reset, cellOn]
theorem test_witness_KeySkipsReadTheNamedKey : (readV (regs [(1, 15)]) 1).toNat = (15 : Fin 16).val ∧
    15 < (readV (regs [(1, 16)]) 1).toNat := by decide
theorem test_witness_WaitForKeyTakesTheLowest : (keyDown (press 15 State.reset) 15 = true ∧
    ∀ j < (15 : Fin 16), keyDown (press 15 State.reset) j = false) ∧ ∀ k, keyDown State.reset k = false := by decide
theorem test_witness_EncodeInvertsDecode : decode 0xD12F = .ok (.drwVxVyNibble 1 2 0xF) := by decide
theorem test_witness_DecoderAgreesWithTheOpcodeMap : (∃ r ∈ opcodeRows, r.covers 0xF565 = true) ∧
    wordWellFormed 0xF566 = false := by decide

/-- The last address an instruction can be fetched from. -/
theorem test_witness_StepRunsTheDecodedInstruction :
    let s := placeWord (at_ 0xFFE State.reset) 0x6A55
    s.fault = .none ∧ s.pc.toNat ≤ 0xFFE ∧
      decode (BitVec.ofNat 16 (readByte s.mem s.pc.toNat).toNat * 256 +
        BitVec.ofNat 16 (readByte s.mem (s.pc.toNat + 1)).toNat) = .ok (.ldVxByte 10 0x55) := by decide
theorem test_witness_UnknownOpcodeIsLoggedAndSkipped : (at_ 0xFFE State.reset).fault = .none ∧
    (at_ 0xFFE State.reset).pc.toNat ≤ 0xFFE ∧
    ∀ r ∈ opcodeRows, r.covers (fetchOpcode (at_ 0xFFE State.reset)) = false := by decide
theorem test_witness_FetchOutOfRangeFaults : (at_ 0xFFF State.reset).fault = .none ∧
    0xFFE < (at_ 0xFFF State.reset).pc.toNat := by decide
theorem test_witness_FaultedCycleDoesNothing : faultCode { State.reset with fault := .stackOverflow }.fault ≠ 0 := by
  decide
theorem test_witness_FaultsArePrecise : ∃ t, step (at_ 0xFFF State.reset) = .next t ∧
    t.fault ≠ (at_ 0xFFF State.reset).fault := ⟨_, rfl, by decide⟩

/-- One state for each of the five conditions, each at the first value that meets it. -/
theorem test_witness_FaultsHaveTheirStatedCauses :
    0xFFE < (at_ 0xFFF State.reset).pc.toNat ∧
    ((withStack 16 State.reset).sp.val = 16 ∧ decode 0x2300 = .ok (.callAddr 0x300)) ∧
    (State.reset.sp.val = 0 ∧ decode 0x00EE = .ok .ret) ∧
    (1 ≤ (1 : Nibble).toNat ∧ 0xFFF < (index 0x1000 State.reset).i.toNat + (1 : Nibble).toNat - 1 ∧
      0xFFF < (index 0xFFE State.reset).i.toNat + 2 ∧ 0xFFF < (index 0xFFF State.reset).i.toNat + (1 : Reg).val) ∧
    15 < (readV (regs [(0, 16)]) 0).toNat := by decide
theorem test_witness_FaultsHaveTheirStatedCauses_step : State.reset.fault = .none ∧ ∃ t, step State.reset = .next t :=
  ⟨rfl, _, rfl⟩
theorem test_witness_SelfJumpAndWaitAreFixedPoints :
    (let s := placeWord (at_ 0xFFE State.reset) 0x1FFE
     s.fault = .none ∧ s.pc.toNat ≤ 0xFFE ∧ decode (fetchOpcode s) = .ok (.jpAddr 0xFFE) ∧
      (0xFFE : Addr).toNat = s.pc.toNat) ∧
    (let s := placeWord State.reset 0xF30A
     decode (fetchOpcode s) = .ok (.ldVxK 3) ∧ ∀ k, keyDown s k = false) := by decide
theorem test_witness_OnlyTheNamedInstructionsWrite : ∃ t, exec .cls State.reset = .next t := ⟨_, rfl⟩
theorem test_witness_OnlyFlagWritersTouchVF : ∃ t, exec (.addVxVy 14 1) State.reset = .next t ∧ (14 : Reg) ≠ 15 :=
  ⟨_, rfl, by decide⟩
theorem test_witness_OnlyFlagWritersTouchVF_index : ∃ t, exec (.addIVx 15) (regs [(15, 5)]) = .next t := ⟨_, rfl⟩
theorem test_witness_OnlyFlagWritersTouchVF_draw : ∃ t, exec (.drwVxVyNibble 15 2 2) corner = .next t ∧
    spriteInRange corner 2 = true := ⟨_, rfl, by decide⟩
theorem test_witness_NoInstructionReadsSoundTimerDirtyOrLog : ∃ t, step State.reset = .next t := ⟨_, rfl⟩


/-- Two machines with the same block, of which one has already emitted an event. -/
theorem test_witness_OperationsDependOnBlockAndDrawOnly : ∃ (u t : State) (r : Reply),
    u.toBlock = State.reset.toBlock ∧ currentDraw u = currentDraw State.reset ∧ u.log ≠ State.reset.log ∧
    perform .cycle State.reset = .next (t, r) :=
  ⟨{ State.reset with log := [⟨0x5341, 0x210⟩] }, _, _, rfl, rfl, by decide, rfl⟩

/-- A state at the upper end of every range of the invariant. -/
def topState : State :=
  { State.reset with pc := 0x10FE, sp := 16, stack := Vector.replicate 16 0x1000, mem := [(0xFFF, 1)] }

theorem test_witness_Inv_top : Inv topState :=
  ⟨by decide, by unfold PcInRange; decide, by unfold StackInRange; decide⟩
theorem test_witness_Inv_reset : Inv State.reset :=
  ⟨by decide, by unfold PcInRange; decide, by unfold StackInRange; decide⟩
theorem test_witness_EveryCycleKeepsInv : Inv topState ∧ ∃ t, step topState = .next t := ⟨test_witness_Inv_top, _, rfl⟩
theorem test_witness_EveryOperationKeepsInv : Inv topState ∧
    ∃ t r, perform (.loadProgram [0x12, 0x00]) topState = .next (t, r) := ⟨test_witness_Inv_top, _, _, rfl⟩
theorem test_witness_ReachableStatesAreInRange : ∃ t r, perform (.setKey 3 true) State.reset = .next (t, r) ∧
    Reachable t ∧ keyDown t 3 = true := ⟨_, _, rfl, .perform (.setKey 3 true) .reset rfl, by decide⟩
theorem test_witness_LoadInstallsAProgram : (List.replicate 3584 (0xAA : Byte)).length ≤ 3584 := by
  rw [List.length_replicate]
theorem test_witness_LoadLeavesResidualMemory : ([] : List Byte).length ≤ 3584 ∧
    (∃ t r, perform (.loadProgram [0x12, 0x00]) State.reset = .next (t, r)) ∧
    ∃ u t r, perform .reset State.reset = .next (u, .unit) ∧ perform (.loadProgram [0x12, 0x00]) u = .next (t, r) :=
  ⟨by decide, ⟨_, _, rfl⟩, _, _, _, rfl, rfl⟩
theorem test_witness_OversizedLoadChangesNothing : 3584 < (List.replicate 3585 (0xAA : Byte)).length := by
  rw [List.length_replicate]; decide
theorem test_witness_FaultStaysUntilResetOrLoad : ∃ t rs,
    { State.reset with fault := .stackOverflow }.fault ≠ .none ∧
    Operation.reset ∉ [Operation.cycle, .tickTimers, .takeDirty] ∧
    (∀ bytes, Operation.loadProgram bytes ∈ [Operation.cycle, .tickTimers, .takeDirty] → 3584 < bytes.length) ∧
    runSchedule [.cycle, .tickTimers, .takeDirty] { State.reset with fault := .stackOverflow } = .next (t, rs) :=
  ⟨_, _, by decide, by decide, by simp, rfl⟩
theorem test_witness_ResetAndLoadLeaveAFault : (List.replicate 3584 (0xAA : Byte)).length ≤ 3584 ∧
    Operation.reset ∈ [Operation.reset, .loadProgram (List.replicate 3584 0xAA)] ∧
    Operation.loadProgram (List.replicate 3584 0xAA) ∈
      [Operation.reset, .loadProgram (List.replicate 3584 0xAA)] :=
  ⟨by rw [List.length_replicate], List.mem_cons_self, List.mem_cons_of_mem _ List.mem_cons_self⟩
theorem test_witness_EmptyMemoryRunsToTheEndAndFaults : 0 ≤ 1792 ∧ (1792 : Nat) ≤ 1792 := by decide

end Sys2Proof.Tests
end

section
/-! The decoder against the encoder and the opcode map (R61 to R66), as far as the unknown-opcode path of a cycle
needs it: a word that decodes is the encoding of its instruction, so it matches a row, and a word that matches no row
is rejected. -/

namespace Sys2Proof
open Sys2Proof.Laws

/-! The fields of a word (R62), put together again in its format (R61), give the word. -/

theorem regBits_fieldX (w : Word) : regBits (fieldX w) = w.extractLsb' 8 4 := rfl

theorem regBits_fieldY (w : Word) : regBits (fieldY w) = w.extractLsb' 4 4 := rfl

theorem formatA_of_fields {w : Word} {f : Nibble} {nnn : Addr} (hf : fieldFamily w = f) (ha : fieldNNN w = nnn) :
    formatA f nnn = w := by
  subst hf ha
  ext k hk
  simp only [formatA, fieldFamily, fieldNNN]
  interval_cases k <;> simp

theorem formatXK_of_fields {w : Word} {f : Nibble} {kk : Byte} (hf : fieldFamily w = f) (hk : fieldKK w = kk) :
    formatXK f (fieldX w) kk = w := by
  subst hf hk
  ext k hk
  simp only [formatXK, regBits_fieldX, fieldFamily, fieldKK]
  interval_cases k <;> simp

theorem formatXYN_of_fields {w : Word} {f n : Nibble} (hf : fieldFamily w = f) (hn : fieldN w = n) :
    formatXYN f (fieldX w) (fieldY w) n = w := by
  subst hf hn
  ext k hk
  simp only [formatXYN, regBits_fieldX, regBits_fieldY, fieldFamily, fieldN]
  interval_cases k <;> simp

/-! The second-level decoders drop no bit: within its family, what a word decodes to encodes to that word. -/

section
variable {w : Word} {i : Instr}

theorem encode_of_decodeFamily0 (hf : fieldFamily w = 0x0) (h : decodeFamily0 w = .ok i) : encode i = w := by
  unfold decodeFamily0 at h
  split at h <;> cases h
  case h_1 ha => exact (by decide : encode .cls = formatA 0x0 0x0E0).trans (formatA_of_fields hf ha)
  case h_2 ha => exact (by decide : encode .ret = formatA 0x0 0x0EE).trans (formatA_of_fields hf ha)

theorem encode_of_decodeFamily5 (hf : fieldFamily w = 0x5) (h : decodeFamily5 w = .ok i) : encode i = w := by
  unfold decodeFamily5 at h
  split at h <;> cases h
  exact formatXYN_of_fields hf ‹_›

theorem encode_of_decodeFamily8 (hf : fieldFamily w = 0x8) (h : decodeFamily8 w = .ok i) : encode i = w := by
  unfold decodeFamily8 at h
  split at h <;> cases h <;> exact formatXYN_of_fields hf ‹_›

theorem encode_of_decodeFamily9 (hf : fieldFamily w = 0x9) (h : decodeFamily9 w = .ok i) : encode i = w := by
  unfold decodeFamily9 at h
  split at h <;> cases h
  exact formatXYN_of_fields hf ‹_›

theorem encode_of_decodeFamilyE (hf : fieldFamily w = 0xE) (h : decodeFamilyE w = .ok i) : encode i = w := by
  unfold decodeFamilyE at h
  split at h <;> cases h <;> exact formatXK_of_fields hf ‹_›

theorem encode_of_decodeFamilyF (hf : fieldFamily w = 0xF) (h : decodeFamilyF w = .ok i) : encode i = w := by
  unfold decodeFamilyF at h
  split at h <;> cases h <;> exact formatXK_of_fields hf ‹_›

/-- A word that decodes is the encoding of what it decodes to (R62, R65). -/
theorem encode_of_decode (h : decode w = .ok i) : encode i = w := by
  unfold decode at h
  split at h
  case h_1 hf => exact encode_of_decodeFamily0 hf h
  case h_6 hf => exact encode_of_decodeFamily5 hf h
  case h_9 hf => exact encode_of_decodeFamily8 hf h
  case h_10 hf => exact encode_of_decodeFamily9 hf h
  case h_15 hf => exact encode_of_decodeFamilyE hf h
  case h_16 =>
    have hf : fieldFamily w = 0xF := by
      simp only [imp_false] at *
      bv_omega
    exact encode_of_decodeFamilyF hf h
  case h_2 hf | h_3 hf | h_11 hf | h_12 hf => cases h; exact formatA_of_fields hf rfl
  case h_4 hf | h_5 hf | h_7 hf | h_8 hf | h_13 hf => cases h; exact formatXK_of_fields hf rfl
  case h_14 hf => cases h; exact formatXYN_of_fields hf rfl

/-- The row an instruction belongs to is one of the 34 of R65. -/
theorem row_mem_opcodeRows (i : Instr) : i.row ∈ opcodeRows := by
  cases i <;> simp only [Instr.row] <;> decide

/-- The word of an instruction matches the row of R65 the instruction belongs to. -/
theorem row_covers_encode : (i : Instr) → i.row.covers (encode i) = true
  | .cls => EncodingRow.cls
  | .ret => EncodingRow.ret
  | .jpAddr _ => EncodingRow.jpAddr _
  | .callAddr _ => EncodingRow.callAddr _
  | .seVxByte _ _ => EncodingRow.seVxByte _ _
  | .sneVxByte _ _ => EncodingRow.sneVxByte _ _
  | .seVxVy _ _ => EncodingRow.seVxVy _ _
  | .ldVxByte _ _ => EncodingRow.ldVxByte _ _
  | .addVxByte _ _ => EncodingRow.addVxByte _ _
  | .ldVxVy _ _ => EncodingRow.ldVxVy _ _
  | .orVxVy _ _ => EncodingRow.orVxVy _ _
  | .andVxVy _ _ => EncodingRow.andVxVy _ _
  | .xorVxVy _ _ => EncodingRow.xorVxVy _ _
  | .addVxVy _ _ => EncodingRow.addVxVy _ _
  | .subVxVy _ _ => EncodingRow.subVxVy _ _
  | .shrVx _ _ => EncodingRow.shrVx _ _
  | .subnVxVy _ _ => EncodingRow.subnVxVy _ _
  | .shlVx _ _ => EncodingRow.shlVx _ _
  | .sneVxVy _ _ => EncodingRow.sneVxVy _ _
  | .ldIAddr _ => EncodingRow.ldIAddr _
  | .jpV0Addr _ => EncodingRow.jpV0Addr _
  | .rndVxByte _ _ => EncodingRow.rndVxByte _ _
  | .drwVxVyNibble _ _ _ => EncodingRow.drwVxVyNibble _ _ _
  | .skpVx _ => EncodingRow.skpVx _
  | .sknpVx _ => EncodingRow.sknpVx _
  | .ldVxDt _ => EncodingRow.ldVxDt _
  | .ldVxK _ => EncodingRow.ldVxK _
  | .ldDtVx _ => EncodingRow.ldDtVx _
  | .ldStVx _ => EncodingRow.ldStVx _
  | .addIVx _ => EncodingRow.addIVx _
  | .ldFVx _ => EncodingRow.ldFVx _
  | .ldBVx _ => EncodingRow.ldBVx _
  | .ldMemIVx _ => EncodingRow.ldMemIVx _
  | .ldVxMemI _ => EncodingRow.ldVxMemI _

/-- A word that decodes matches the row of the instruction it decodes to (R65). -/
theorem row_covers_of_decode (h : decode w = .ok i) : i.row.covers w = true :=
  encode_of_decode h ▸ row_covers_encode i

/-- A word that matches no row is rejected (R66). -/
theorem decode_error_of_no_row (h : ∀ r ∈ opcodeRows, r.covers w = false) : ∃ e, decode w = .error e := by
  cases hd : decode w with
  | error e => exact ⟨e, rfl⟩
  | ok i => exact absurd (row_covers_of_decode hd) (by simp [h i.row (row_mem_opcodeRows i)])

end

end Sys2Proof
end

section
/-! Family 40_fetch_dispatch.md: the dispatch of a decoded instruction and the unknown-opcode path. -/

namespace Sys2Proof.Machine

/-! A cycle from a state with no fault and `PC` in range, by what the fetched word decodes to (R80). -/

section
variable {s : State} (hf : s.fault = .none) (hp : s.pc.toNat ≤ 0xFFE)
include hf hp

theorem step_of_decode_ok {i : Instr} (h : decode (fetchOpcode s) = .ok i) : step s = exec i (advancePc s) := by
  simp [step, (halted_eq_false_iff s).2 hf, (fetchInRange_iff s).2 hp, h]

theorem step_of_decode_error {e : UnknownWord} (h : decode (fetchOpcode s) = .error e) :
    step s = .next (skipUnknown (fetchOpcode s) s) := by
  simp [step, (halted_eq_false_iff s).2 hf, (fetchInRange_iff s).2 hp, h]

end

/-- R81: the fetched word in the spec's own arithmetic, the byte at the lower address first. -/
theorem fetchOpcode_eq (s : State) : fetchOpcode s =
    BitVec.ofNat 16 (readByte s.mem s.pc.toNat).toNat * 256 +
      BitVec.ofNat 16 (readByte s.mem (s.pc.toNat + 1)).toNat := by
  apply BitVec.eq_of_toNat_eq
  rw [fetchOpcode_toNat]
  have hhi : (readByte s.mem s.pc.toNat).toNat < 2 ^ 8 := BitVec.isLt _
  have hlo : (readByte s.mem (s.pc.toNat + 1)).toNat < 2 ^ 8 := BitVec.isLt _
  bv_omega

/-- Settles O34: the rejected word takes the unknown-opcode path of the cycle, whose update of `PC` does not wrap
below 0xFFF. -/
theorem unknownOpcodeIsLoggedAndSkipped : Obligations.UnknownOpcodeIsLoggedAndSkipped := by
  intro s hf hp hrows
  obtain ⟨e, he⟩ := decode_error_of_no_row hrows
  have hpc : (s.pc + 2).toNat = s.pc.toNat + 2 := by bv_omega
  exact ⟨_, step_of_decode_error hf hp he, onlyChanges_skipUnknown _ s, hpc, rfl⟩

/-- Settles O33: the word of the statement is the fetched one, and its instruction is what the cycle dispatches. -/
theorem stepRunsTheDecodedInstruction : Obligations.StepRunsTheDecodedInstruction := by
  intro s i hf hp hd
  rw [← fetchOpcode_eq] at hd
  exact step_of_decode_ok hf hp hd

end Sys2Proof.Machine
end

section
/-! The fields of the words the claims are written with (R62): `wordNNN`, `wordXKK` and `wordXYN` put each digit in
its field, so that `decode` of such a word is decided by the digits. -/

namespace Sys2Proof.Machine

section
variable (f n : Nat) (nnn : Addr) (x y : Reg)

@[simp] theorem fieldFamily_wordNNN : fieldFamily (wordNNN f nnn) = BitVec.ofNat 4 f := by
  apply BitVec.eq_of_toNat_eq
  simp only [fieldFamily, wordNNN, BitVec.extractLsb'_toNat, BitVec.toNat_ofNat, Nat.shiftRight_eq_div_pow]
  omega

@[simp] theorem fieldNNN_wordNNN : fieldNNN (wordNNN f nnn) = nnn := by
  apply BitVec.eq_of_toNat_eq
  simp only [fieldNNN, wordNNN, BitVec.extractLsb'_toNat, BitVec.toNat_ofNat, Nat.shiftRight_eq_div_pow]
  omega

@[simp] theorem fieldX_wordXYN (hn : n < 16) : fieldX (wordXYN f x y n) = x := by
  apply Fin.ext
  simp only [fieldX, wordXYN, BitVec.val_toFin, BitVec.extractLsb'_toNat, BitVec.toNat_ofNat,
    Nat.shiftRight_eq_div_pow]
  omega

@[simp] theorem fieldY_wordXYN (hn : n < 16) : fieldY (wordXYN f x y n) = y := by
  apply Fin.ext
  simp only [fieldY, wordXYN, BitVec.val_toFin, BitVec.extractLsb'_toNat, BitVec.toNat_ofNat,
    Nat.shiftRight_eq_div_pow]
  omega

@[simp] theorem fieldN_wordXYN : fieldN (wordXYN f x y n) = BitVec.ofNat 4 n := by
  apply BitVec.eq_of_toNat_eq
  simp only [fieldN, wordXYN, BitVec.extractLsb'_toNat, BitVec.toNat_ofNat, Nat.shiftRight_eq_div_pow]
  omega

@[simp] theorem fieldFamily_wordXYN (hn : n < 16) : fieldFamily (wordXYN f x y n) = BitVec.ofNat 4 f := by
  apply BitVec.eq_of_toNat_eq
  simp only [fieldFamily, wordXYN, BitVec.extractLsb'_toNat, BitVec.toNat_ofNat, Nat.shiftRight_eq_div_pow]
  omega

end

section
variable (f kk : Nat) (x : Reg)

@[simp] theorem fieldKK_wordXKK : fieldKK (wordXKK f x kk) = BitVec.ofNat 8 kk := by
  apply BitVec.eq_of_toNat_eq
  simp only [fieldKK, wordXKK, BitVec.extractLsb'_toNat, BitVec.toNat_ofNat, Nat.shiftRight_eq_div_pow]
  omega

@[simp] theorem fieldX_wordXKK (hk : kk < 256) : fieldX (wordXKK f x kk) = x := by
  apply Fin.ext
  simp only [fieldX, wordXKK, BitVec.val_toFin, BitVec.extractLsb'_toNat, BitVec.toNat_ofNat,
    Nat.shiftRight_eq_div_pow]
  omega

@[simp] theorem fieldFamily_wordXKK (hk : kk < 256) : fieldFamily (wordXKK f x kk) = BitVec.ofNat 4 f := by
  apply BitVec.eq_of_toNat_eq
  simp only [fieldFamily, wordXKK, BitVec.extractLsb'_toNat, BitVec.toNat_ofNat, Nat.shiftRight_eq_div_pow]
  omega

end

end Sys2Proof.Machine
end

section
/-! Family 41_control_flow.md: the skips, the jumps, the call and the return. -/

namespace Sys2Proof.Machine

/-- R98: the `PC` a skip leaves, as a number. -/
theorem skipIf_pc_toNat (c : Bool) (s : State) :
    (skipIf c s).pc.toNat = (s.pc.toNat + if c then 2 else 0) % 65536 := by
  cases c
  · exact (Nat.mod_eq_of_lt s.pc.isLt).symm
  · exact BitVec.toNat_add s.pc 2

@[simp] theorem toNat_zextAddr (nnn : Addr) : (zextAddr nnn).toNat = nnn.toNat :=
  BitVec.toNat_setWidth_of_le (by decide)

@[simp] theorem toNat_zextByte (b : Byte) : (zextByte b).toNat = b.toNat :=
  BitVec.toNat_setWidth_of_le (by decide)

/-- R93: the target of `Bnnn` never reaches 65536, so the sum is exact. -/
theorem toNat_zextAddr_add_zextByte (nnn : Addr) (b : Byte) :
    (zextAddr nnn + zextByte b).toNat = nnn.toNat + b.toNat := by
  rw [BitVec.toNat_add, toNat_zextAddr, toNat_zextByte]
  omega

/-- A fault raised as R152 says, seen as the claim `Raises`. -/
theorem raises_of_exec_eq {f : FaultStatus} {i : Instr} {s : State}
    (h : exec i s = .next (takeFault f (s.pc - 2) s)) : Raises f i s :=
  ⟨_, h, rfl, BitVec.sub_add_cancel s.pc 2, onlyChanges_takeFault f _ s⟩

theorem onlyChanges_stack_sp (s : State) (st : Vector Word 16) (n : Fin 17) :
    OnlyChanges [.stack, .sp] s { s with stack := st, sp := n } := by
  intro p hp; cases p <;> simp_all [Unchanged, keyDown, readV]

theorem onlyChanges_sp (s : State) (n : Fin 17) : OnlyChanges [.sp] s { s with sp := n } := by
  intro p hp; cases p <;> simp_all [Unchanged, keyDown, readV]

/-! What the call (R92) and the return (R90) answer, by the entries in use. -/

section
variable {s : State}

theorem exec_callAddr_of_lt (nnn : Addr) (h : s.sp.val < 16) : exec (.callAddr nnn) s =
    .next (setPc { s with stack := s.stack.set s.sp.val s.pc, sp := ⟨s.sp.val + 1, by omega⟩ } (zextAddr nnn)) := by
  obtain ⟨_, hp⟩ | ⟨hfull, _⟩ := pushReturn_cases s s.pc
  · simp only [exec, execCallAddr, hp]
  · omega

theorem exec_callAddr_of_full (nnn : Addr) (h : s.sp.val = 16) :
    exec (.callAddr nnn) s = .next (takeFault .stackOverflow (s.pc - 2) s) := by
  obtain ⟨hroom, _⟩ | ⟨_, hp⟩ := pushReturn_cases s s.pc
  · omega
  · simp only [exec, execCallAddr, hp, raise_eq]

theorem exec_ret_of_sp_eq {k : Fin 16} (h : s.sp.val = k.val + 1) :
    exec .ret s = .next (setPc { s with sp := k.castSucc } s.stack[k]) := by
  obtain ⟨_, hp⟩ | ⟨hempty, _⟩ := popReturn_cases s
  · simp only [exec, execRet, hp, h, Nat.add_sub_cancel]
    rfl
  · omega

theorem exec_ret_of_empty (h : s.sp.val = 0) :
    exec .ret s = .next (takeFault .stackUnderflow (s.pc - 2) s) := by
  obtain ⟨hopen, _⟩ | ⟨_, hp⟩ := popReturn_cases s
  · omega
  · simp only [exec, execRet, hp, raise_eq]

end

/-- Settles O1: each of the four is `skipIf` of its condition. -/
theorem registerSkipsAddTwoWhenTrue : Obligations.RegisterSkipsAddTwoWhenTrue := fun x y kk s =>
  ⟨⟨by simp [decode, kk.isLt], _, rfl, onlyChanges_skipIf _ s, (skipIf_pc_toNat _ s).trans (by simp)⟩,
    ⟨by simp [decode, kk.isLt], _, rfl, onlyChanges_skipIf _ s, (skipIf_pc_toNat _ s).trans (by simp)⟩,
    ⟨by simp [decode, decodeFamily5], _, rfl, onlyChanges_skipIf _ s, (skipIf_pc_toNat _ s).trans (by simp)⟩,
    ⟨by simp [decode, decodeFamily9], _, rfl, onlyChanges_skipIf _ s, (skipIf_pc_toNat _ s).trans (by simp)⟩⟩

/-- Settles O2: both jumps are one write of `PC`. -/
theorem jumpsSetThePc : Obligations.JumpsSetThePc := fun nnn s =>
  ⟨⟨by simp [decode], _, rfl, onlyChanges_setPc s _, toNat_zextAddr nnn⟩,
    ⟨by simp [decode], _, rfl, onlyChanges_setPc s _, toNat_zextAddr_add_zextByte nnn _⟩⟩

/-- Settles O3, by whether an entry is free. -/
theorem callPushesOrOverflows : Obligations.CallPushesOrOverflows := by
  intro nnn s
  refine ⟨by simp [decode], fun hroom => ?_, fun hfull => ⟨raises_of_exec_eq (exec_callAddr_of_full nnn hfull), rfl⟩⟩
  refine ⟨_, exec_callAddr_of_lt nnn hroom, ?_, fun k => ?_, rfl, toNat_zextAddr nnn⟩
  · exact onlyChanges_trans (onlyChanges_mono (onlyChanges_stack_sp s _ _) (by simp))
      (onlyChanges_mono (onlyChanges_setPc _ _) (by simp))
  · simp [Vector.getElem_set, eq_comm]

/-- Settles O4, by whether a call is open. -/
theorem returnPopsOrUnderflows : Obligations.ReturnPopsOrUnderflows := by
  intro s
  refine ⟨by decide, fun k hk => ?_, fun hempty => ⟨raises_of_exec_eq (exec_ret_of_empty hempty), rfl⟩⟩
  refine ⟨_, exec_ret_of_sp_eq hk, ?_, rfl, rfl⟩
  exact onlyChanges_trans (onlyChanges_mono (onlyChanges_sp s _) (by simp))
    (onlyChanges_mono (onlyChanges_setPc _ _) (by simp))

end Sys2Proof.Machine
end

section
/-! Family 42_register_alu.md: the register loads, the arithmetic, the logic and the shifts. -/

namespace Sys2Proof.Machine

/-! The registers a write leaves unchanged, and what each holds after a flag and a result are written (R101). -/

section
variable (s : State) (c : Bool) (x : Reg) (b : Byte)

theorem onlyRegs_writeV : OnlyRegs [x] s (writeV s x b) := fun _ hr =>
  readV_writeV_other s b (List.ne_of_not_mem_cons hr)

theorem onlyRegs_writeFlagThenV : OnlyRegs [x, 15] s (writeFlagThenV s c x b) := by
  intro r hr
  obtain ⟨hx, hf⟩ : r ≠ x ∧ r ≠ regVF := by simpa [regVF] using hr
  rw [readV_writeFlagThenV, if_neg hx, if_neg hf]

@[simp] theorem readV_writeFlagThenV_same : readV (writeFlagThenV s c x b) x = b :=
  readV_writeV_same _ x b

variable {x}

/-- The flag stands in VF unless the result was written over it. -/
theorem readV_writeFlagThenV_vf (hx : x ≠ 15) : readV (writeFlagThenV s c x b) 15 = flagByte c := by
  rw [readV_writeFlagThenV, if_neg hx.symm]
  exact if_pos rfl

end

/-! The flags and the results as numbers. -/

section
variable (a b : Byte)

theorem flagByte_carryOut : flagByte (carryOut a b) = if 255 < a.toNat + b.toNat then 1 else 0 := by
  simp [flagByte, carryOut]

theorem flagByte_noBorrow : flagByte (noBorrow a b) = if b.toNat ≤ a.toNat then 1 else 0 := by
  simp [flagByte, noBorrow]

theorem toNat_flagByte (c : Bool) : (flagByte c).toNat = c.toNat := by
  cases c <;> rfl

/-- R110: the bit a right shift moves out is the remainder of the halving. -/
theorem toNat_flagByte_lowBit : (flagByte (lowBit a)).toNat = a.toNat % 2 := by
  rw [toNat_flagByte, lowBit, BitVec.getLsbD, Nat.toNat_testBit, Nat.pow_zero, Nat.div_one]

/-- R112: the bit a left shift moves out is the top bit of the byte. -/
theorem toNat_flagByte_highBit : (flagByte (highBit a)).toNat = a.toNat / 128 := by
  rw [toNat_flagByte, highBit, BitVec.getLsbD, Nat.toNat_testBit]
  have := a.isLt
  omega

/-- R100: byte subtraction wraps modulo 256. -/
theorem toNat_sub_byte : ((a - b).toNat : Int) = (a.toNat - b.toNat : Int) % 256 := by
  rw [BitVec.toNat_sub]
  have := b.isLt
  omega

end

/-- Settles O6: both are one write of `V[x]`. -/
theorem registerLoadsCopy : Obligations.RegisterLoadsCopy := fun x y kk s =>
  ⟨⟨by simp [decode, kk.isLt], _, rfl, onlyChanges_writeV s x _, onlyRegs_writeV s x _, readV_writeV_same s x _⟩,
    ⟨by simp [decode, decodeFamily8], _, rfl, onlyChanges_writeV s x _, onlyRegs_writeV s x _,
      readV_writeV_same s x _⟩⟩

/-- Settles O7: one write of `V[x]`, whose byte addition wraps (R100). -/
theorem addConstantWrapsWithoutFlag : Obligations.AddConstantWrapsWithoutFlag := by
  intro x kk s
  refine ⟨by simp [decode, kk.isLt], _, rfl, onlyChanges_writeV s x _, onlyRegs_writeV s x _, ?_⟩
  rw [readV_writeV_same, BitVec.toNat_add]

/-- Settles O8: each of the three is one write of `V[x]`, of a byte given bit by bit. -/
theorem logicActsBitwiseWithoutFlag : Obligations.LogicActsBitwiseWithoutFlag := by
  intro x y s
  refine ⟨⟨by simp [decode, decodeFamily8], _, rfl, onlyChanges_writeV s x _, onlyRegs_writeV s x _, ?_⟩,
    ⟨by simp [decode, decodeFamily8], _, rfl, onlyChanges_writeV s x _, onlyRegs_writeV s x _, ?_⟩,
    ⟨by simp [decode, decodeFamily8], _, rfl, onlyChanges_writeV s x _, onlyRegs_writeV s x _, ?_⟩⟩ <;>
    intro b _
  · rw [readV_writeV_same, BitVec.getLsbD_or]
  · rw [readV_writeV_same, BitVec.getLsbD_and]
  · rw [readV_writeV_same, BitVec.getLsbD_xor]

/-- Settles O9: the carry is written before the sum (R101), so it stands in VF unless `x = F`. -/
theorem addStoresSumAndCarry : Obligations.AddStoresSumAndCarry := by
  intro x y s
  refine ⟨by simp [decode, decodeFamily8], _, rfl, onlyChanges_writeFlagThenV s _ x _,
    onlyRegs_writeFlagThenV s _ x _, ?_, fun hx => ?_⟩
  · rw [readV_writeFlagThenV_same, BitVec.toNat_add]
  · rw [readV_writeFlagThenV_vf s _ _ hx, flagByte_carryOut]

/-- What both subtractions (R109, R111) leave in the registers, of any minuend `a` and subtrahend `b`. -/
theorem writeFlagThenV_sub (s : State) (x : Reg) (a b : Byte) :
    ((readV (writeFlagThenV s (noBorrow a b) x (a - b)) x).toNat : Int) = (a.toNat - b.toNat : Int) % 256 ∧
      (x ≠ 15 → readV (writeFlagThenV s (noBorrow a b) x (a - b)) 15 = if b.toNat ≤ a.toNat then 1 else 0) := by
  refine ⟨?_, fun hx => ?_⟩
  · rw [readV_writeFlagThenV_same, toNat_sub_byte]
  · rw [readV_writeFlagThenV_vf s _ _ hx, flagByte_noBorrow]

/-- Settles O10: the two differ in which register is the minuend. -/
theorem subtractStoresDifferenceAndNoBorrow : Obligations.SubtractStoresDifferenceAndNoBorrow := fun x y s =>
  ⟨⟨by simp [decode, decodeFamily8], _, rfl, onlyChanges_writeFlagThenV s _ x _, onlyRegs_writeFlagThenV s _ x _,
      writeFlagThenV_sub s x (readV s x) (readV s y)⟩,
    ⟨by simp [decode, decodeFamily8], _, rfl, onlyChanges_writeFlagThenV s _ x _, onlyRegs_writeFlagThenV s _ x _,
      writeFlagThenV_sub s x (readV s y) (readV s x)⟩⟩

/-- Settles O11: neither meaning reads `y`, and the bit that leaves is computed from the old `V[x]`. -/
theorem shiftsMoveOneBitIntoFlag : Obligations.ShiftsMoveOneBitIntoFlag := by
  intro x y y' s
  refine ⟨⟨by simp [decode, decodeFamily8], rfl, _, rfl, onlyChanges_writeFlagThenV s _ x _,
      onlyRegs_writeFlagThenV s _ x _, ?_, fun hx => ?_⟩,
    ⟨by simp [decode, decodeFamily8], rfl, _, rfl, onlyChanges_writeFlagThenV s _ x _,
      onlyRegs_writeFlagThenV s _ x _, ?_, fun hx => ?_⟩⟩
  · rw [readV_writeFlagThenV_same, BitVec.toNat_ushiftRight, Nat.shiftRight_one]
  · rw [readV_writeFlagThenV_vf s _ _ hx, toNat_flagByte_lowBit]
  · rw [readV_writeFlagThenV_same, BitVec.toNat_shiftLeft, Nat.shiftLeft_eq, Nat.pow_one]
  · rw [readV_writeFlagThenV_vf s _ _ hx, toNat_flagByte_highBit]

end Sys2Proof.Machine
end

section
/-! Family 43_index_memory.md: the load of `I`, the two stores at `I` and the block load. -/

namespace Sys2Proof.Machine

/-! What the checked store and the block load answer, by whether the highest address is in range (R46). -/

section
variable {s : State}

/-- A store of `m + 1` bytes in range puts byte `k` at `I + k` and changes nothing outside `I` to `I + m`. -/
theorem storeAtI_of_le {m : Nat} {ws : List Byte} (hlen : ws.length = m + 1) (h : dataAddr s m ≤ 0xFFF) :
    ∃ t, storeAtI s m ws = .next t ∧ OnlyChanges [.mem] s t ∧
      (∀ k (hk : k < ws.length), readByte t.mem (dataAddr s k) = ws[k]) ∧
      ∀ a, a < dataAddr s 0 ∨ dataAddr s m < a → readByte t.mem a = readByte s.mem a := by
  simp only [dataAddr] at *
  obtain ⟨_, hs⟩ | ⟨hbig, _⟩ := storeAtI_cases s m ws
  · refine ⟨_, hs, onlyChanges_setMem s _, fun k hk => ?_, fun a ha => ?_⟩
    · exact readByte_writeBytes_at s.mem s.i.toNat ws k hk
    · exact readByte_writeBytes_outside s.mem s.i.toNat ws a (by omega)
  · omega

theorem storeAtI_of_gt {m : Nat} (ws : List Byte) (h : 0xFFF < dataAddr s m) :
    storeAtI s m ws = .next (takeFault .dataAddressOutOfRange (s.pc - 2) s) := by
  obtain ⟨hle, _⟩ | ⟨_, hs⟩ := storeAtI_cases s m ws
  · exact absurd hle (Nat.not_le.2 h)
  · exact hs

theorem exec_ldVxMemI_of_le {x : Reg} (h : dataAddr s x.val ≤ 0xFFF) :
    exec (.ldVxMemI x) s = .next (setRegs s (regsLoaded s x)) :=
  if_pos ((dataInRange_iff s x.val).2 h)

theorem exec_ldVxMemI_of_gt {x : Reg} (h : 0xFFF < dataAddr s x.val) :
    exec (.ldVxMemI x) s = .next (takeFault .dataAddressOutOfRange (s.pc - 2) s) :=
  if_neg (mt (dataInRange_iff s x.val).1 (Nat.not_le.2 h))

end

@[simp] theorem length_bcdDigits (b : Byte) : (bcdDigits b).length = 3 := rfl

/-- R123: a decimal digit of a byte fits in a byte, so it is stored as it is. -/
theorem toNat_bcdDigits (b : Byte) : (bcdDigits b)[0].toNat = b.toNat / 100 ∧
    (bcdDigits b)[1].toNat = b.toNat / 10 % 10 ∧ (bcdDigits b)[2].toNat = b.toNat % 10 := by
  have := b.isLt
  simp only [bcdDigits, List.getElem_cons_zero, List.getElem_cons_succ, BitVec.toNat_ofNat]
  omega

/-- Settles O13: one write of `I`, with the address field widened by zeros. -/
theorem loadIndexZeroExtends : Obligations.LoadIndexZeroExtends := fun nnn s =>
  ⟨by simp [decode], _, rfl, onlyChanges_setI s _, toNat_zextAddr nnn⟩

/-- Settles O16: a checked store of the three digits. -/
theorem bcdStoresThreeDigits : Obligations.BcdStoresThreeDigits := by
  intro x s
  refine ⟨by simp [decode, decodeFamilyF], fun h => ?_, fun h => raises_of_exec_eq (storeAtI_of_gt _ h)⟩
  obtain ⟨t, ht, hframe, hin, hout⟩ := storeAtI_of_le (length_bcdDigits (readV s x)) h
  obtain ⟨hundreds, tens, ones⟩ := toNat_bcdDigits (readV s x)
  refine ⟨t, ht, hframe, ?_, ?_, ?_, hout⟩
  · rw [hin 0 (by simp), hundreds]
  · rw [hin 1 (by simp), tens]
  · rw [hin 2 (by simp), ones]

/-- Settles O17: a checked store of `V[0]` to `V[x]`. -/
theorem blockStoreCopiesRegisters : Obligations.BlockStoreCopiesRegisters := by
  intro x s
  refine ⟨by simp [decode, decodeFamilyF], fun h => ?_, fun h => raises_of_exec_eq (storeAtI_of_gt _ h)⟩
  obtain ⟨t, ht, hframe, hin, hout⟩ := storeAtI_of_le (length_regsUpTo s x) h
  refine ⟨t, ht, hframe, fun k hk => ?_, hout⟩
  have hk' : k.val < (regsUpTo s x).length := length_regsUpTo s x ▸ Nat.lt_succ_of_le hk
  rw [hin k.val hk', getElem_regsUpTo s x k.val hk']

/-- Settles O18, by whether `I + x` is in range. -/
theorem blockLoadCopiesMemory : Obligations.BlockLoadCopiesMemory := by
  intro x s
  refine ⟨by simp [decode, decodeFamilyF], fun h => ?_, fun h => raises_of_exec_eq (exec_ldVxMemI_of_gt h)⟩
  exact ⟨_, exec_ldVxMemI_of_le h, onlyChanges_setRegs s _, readV_setRegs_regsLoaded s x⟩

end Sys2Proof.Machine
end

section
/-! Family 44_display.md: the display instructions. -/

namespace Sys2Proof.Machine

/-- Settles O21: one write of the display (R132), of the blank one. -/
theorem clearTurnsEveryCellOff : Obligations.ClearTurnsEveryCellOff := fun s =>
  ⟨by decide, _, rfl, onlyChanges_setDisp s _, setDisp_dirty s _, cellOn_blank⟩

end Sys2Proof.Machine
end

section
/-! Family 45_keypad_timers.md: the wait for a key and the copies between a register and a timer. -/

namespace Sys2Proof.Machine

/-! The search for the lowest pressed key (R142), in terms of the keypad cells (R25). -/

section
variable {s : State}

theorem lowestKeyDown_eq_some_iff {k : Fin 16} :
    lowestKeyDown s = some k ↔ keyDown s k = true ∧ ∀ j < k, keyDown s j = false := by
  simp only [lowestKeyDown, List.find?_eq_some_iff_getElem, List.getElem_finRange]
  constructor
  · rintro ⟨hk, i, hi, rfl, hlow⟩
    exact ⟨hk, fun j hj => by simpa using hlow j.val hj⟩
  · rintro ⟨hk, hlow⟩
    exact ⟨hk, k.val, by simp, rfl, fun j hj => by simpa using hlow ⟨j, hj.trans k.isLt⟩ hj⟩

theorem lowestKeyDown_eq_none_iff : lowestKeyDown s = none ↔ ∀ k, keyDown s k = false := by
  simp [lowestKeyDown, List.find?_eq_none]

/-! What `Fx0A` answers (R142), by what the search finds. -/

theorem exec_ldVxK_of_some (x : Reg) {k : Fin 16} (h : lowestKeyDown s = some k) :
    exec (.ldVxK x) s = .next (writeV s x (BitVec.ofNat 8 k.val)) := by
  simp only [exec, execLdVxK, h]

theorem exec_ldVxK_of_none (x : Reg) (h : lowestKeyDown s = none) :
    exec (.ldVxK x) s = .next (setPc s (s.pc - 2)) := by
  simp only [exec, execLdVxK, h, fetchedFrom]

end

/-- Settles O26, by whether the search finds a key: a write of `V[x]`, or `PC` back at `pc0`. -/
theorem waitForKeyTakesTheLowest : Obligations.WaitForKeyTakesTheLowest := by
  intro x s
  refine ⟨by simp [decode, decodeFamilyF], fun k hk hlow => ?_, fun hup => ?_⟩
  · have hfound : lowestKeyDown s = some k := lowestKeyDown_eq_some_iff.2 ⟨hk, hlow⟩
    refine ⟨_, exec_ldVxK_of_some x hfound, onlyChanges_writeV s x _, onlyRegs_writeV s x _, ?_⟩
    rw [readV_writeV_same, BitVec.toNat_ofNat]
    omega
  · have hwaits : lowestKeyDown s = none := lowestKeyDown_eq_none_iff.2 hup
    exact ⟨_, exec_ldVxK_of_none x hwaits, onlyChanges_setPc s _, BitVec.sub_add_cancel s.pc 2⟩

/-- Settles O27: each of the three is one write, of `V[x]`, of `DT` or of `ST`. -/
theorem timerInstructionsCopy : Obligations.TimerInstructionsCopy := fun x s =>
  ⟨⟨by simp [decode, decodeFamilyF], _, rfl, onlyChanges_writeV s x _, onlyRegs_writeV s x _,
      readV_writeV_same s x _⟩,
    ⟨by simp [decode, decodeFamilyF], _, rfl, onlyChanges_setDt s _, setDt_dt s _⟩,
    ⟨by simp [decode, decodeFamilyF], _, rfl, onlyChanges_setSt s _, setSt_st s _⟩⟩

end Sys2Proof.Machine
end

section
/-! Family 60_exceptions.md: the host operations beside the cycle. -/

namespace Sys2Proof.Machine

/-! The tick (R165, R166), in terms of the timers as numbers. -/

/-- R165: "decrement unless 0" is natural-number subtraction, which stops at 0. -/
theorem countDown_toNat (b : Byte) : (countDown b).toNat = b.toNat - 1 := by
  unfold countDown
  split
  · next h => rw [h]; rfl
  · next h => bv_omega

theorem toneDue_eq_true_iff (s : State) : toneDue s = true ↔ s.st.toNat = 1 := by
  rw [toneDue, beq_iff_eq, ← BitVec.toNat_inj]
  rfl

theorem onlyChanges_tickTimers (s : State) : OnlyChanges [.dt, .st] s (tickTimers s).1 :=
  onlyChanges_trans (onlyChanges_mono (onlyChanges_setDt s _) (by simp))
    (onlyChanges_mono (onlyChanges_setSt _ _) (by simp))

/-! The two host ports that write the block (R170, R171). -/

theorem onlyChanges_setKey (k : Fin 16) (down : Bool) (s : State) : OnlyChanges [.key] s (setKey k down s) := by
  intro p hp; cases p <;> simp_all [Unchanged, readV]

theorem keyDown_setKey (k : Fin 16) (down : Bool) (s : State) (j : Fin 16) :
    keyDown (setKey k down s) j = if j = k then down else keyDown s j := by
  simp [keyDown, Vector.getElem_set, Fin.val_inj, eq_comm]

theorem onlyChanges_takeDirty (s : State) : OnlyChanges [.dirty] s (takeDirty s).1 := by
  intro p hp; cases p <;> simp_all [Unchanged, takeDirty, keyDown, readV]

/-- Settles O52: a tick is one write of each timer, of its own count-down. -/
theorem tickCountsBothTimersDown : Obligations.TickCountsBothTimersDown := fun s =>
  ⟨_, _, rfl, onlyChanges_tickTimers s, countDown_toNat s.dt, countDown_toNat s.st, toneDue_eq_true_iff s⟩

/-- Settles O54: the three reads keep the state, and each of the two writes is of one piece. -/
theorem hostPortsDoOnlyTheirPart : Obligations.HostPortsDoOnlyTheirPart := fun k down s =>
  ⟨rfl, rfl, rfl, ⟨_, rfl, onlyChanges_setKey k down s, keyDown_setKey k down s⟩,
    _, rfl, onlyChanges_takeDirty s, rfl⟩

end Sys2Proof.Machine
end

section
/-! Family 70_reset_and_hazards.md: what a load leaves in memory. -/

namespace Sys2Proof.Machine

/-! What `load_program` answers, by whether the program fits (R181, R182). -/

section
variable {bytes : List Byte}

theorem loadProgram_of_le (h : bytes.length ≤ 3584) (s : State) :
    loadProgram bytes s = (loadImage bytes s, true) :=
  if_pos (decide_eq_true h)

theorem loadProgram_of_gt (h : 3584 < bytes.length) (s : State) : loadProgram bytes s = (s, false) :=
  if_neg (by simp [programFits, h])

theorem perform_loadProgram_of_le (h : bytes.length ≤ 3584) (s : State) :
    perform (.loadProgram bytes) s = .next (loadImage bytes s, .loaded true) := by
  rw [perform, loadProgram_of_le h]

theorem perform_loadProgram_of_gt (h : 3584 < bytes.length) (s : State) :
    perform (.loadProgram bytes) s = .next (s, .loaded false) := by
  rw [perform, loadProgram_of_gt h]

end

/-- R183: the only bytes an image changes are its own, at 0x200 and up. -/
theorem readByte_loadImage_outside (bytes : List Byte) (s : State) {a : Nat}
    (ha : a < 0x200 ∨ 0x200 + bytes.length ≤ a) : readByte (loadImage bytes s).mem a = readByte s.mem a :=
  readByte_writeBytes_outside s.mem Config.loadAddr bytes a ha

/-- R11: after `reset` every byte reads as its reset contents, the font and zeros. -/
theorem readByte_resetOp (s : State) (a : Nat) :
    readByte (resetOp s).mem a = if a < 80 then Config.font a else 0 := rfl

/-- Settles O50: a load that fits is one write of the image, into whatever memory held; after `reset` that is the font
and zeros. -/
theorem loadLeavesResidualMemory : Obligations.LoadLeavesResidualMemory := by
  intro bytes s hfit
  refine ⟨fun t r hload a ha => ?_, fun u t r hreset hload a ha => ?_⟩
  · rw [perform_loadProgram_of_le hfit] at hload
    cases hload
    exact readByte_loadImage_outside bytes s ha
  · cases hreset
    rw [perform_loadProgram_of_le hfit] at hload
    cases hload
    rw [readByte_loadImage_outside bytes _ ha, readByte_resetOp]

/-- Settles O51: the test of the length fails, and the load's other branch answers the state it was given. -/
theorem oversizedLoadChangesNothing : Obligations.OversizedLoadChangesNothing := fun _ s h =>
  perform_loadProgram_of_gt h s

end Sys2Proof.Machine
end

section
/-! The encoder against the decoder and the opcode map (R61 to R67): the word of an instruction is the one the claims
spell by its digits, the bytes of a word put together again are the word, and a row fixes the fields its mask covers. -/

namespace Sys2Proof
open Sys2Proof.Machine

/-! The formats of R61 give the words spelt by their digits. -/

theorem formatA_eq_wordNNN (f : Nibble) (nnn : Addr) : formatA f nnn = wordNNN f.toNat nnn :=
  formatA_of_fields (by simp) (by simp)

theorem formatXK_eq_wordXKK (f : Nibble) (x : Reg) (kk : Byte) : formatXK f x kk = wordXKK f.toNat x kk.toNat := by
  have h := formatXK_of_fields (fieldFamily_wordXKK f.toNat kk.toNat x kk.isLt) rfl
  simpa [kk.isLt] using h

theorem formatXYN_eq_wordXYN (f n : Nibble) (x y : Reg) : formatXYN f x y n = wordXYN f.toNat x y n.toNat := by
  have h := formatXYN_of_fields (fieldFamily_wordXYN f.toNat n.toNat x y n.isLt) rfl
  simpa [n.isLt] using h

/-- R60, R40: the two bytes of a word, the high one first, are the word. -/
theorem opcodeOfBytes_highByte_lowByte (w : Word) : opcodeOfBytes (highByte w) (lowByte w) = w := by
  ext k hk
  simp only [opcodeOfBytes, highByte, lowByte]
  interval_cases k <;> simp

/-- R64, R65: the decoder reads every field of the word the encoder writes. -/
theorem decode_encode (i : Instr) : decode (encode i) = .ok i := by
  cases i
  case cls | ret => decide
  case jpAddr | callAddr | ldIAddr | jpV0Addr => simp [encode, formatA_eq_wordNNN, decode]
  case seVxByte kk | sneVxByte kk | ldVxByte kk | addVxByte kk | rndVxByte kk =>
    simp [encode, formatXK_eq_wordXKK, decode, kk.isLt]
  case skpVx | sknpVx => simp [encode, formatXK_eq_wordXKK, decode, decodeFamilyE]
  case ldVxDt | ldVxK | ldDtVx | ldStVx | addIVx | ldFVx | ldBVx | ldMemIVx | ldVxMemI =>
    simp [encode, formatXK_eq_wordXKK, decode, decodeFamilyF]
  case drwVxVyNibble n => simp [encode, formatXYN_eq_wordXYN, decode, n.isLt]
  case seVxVy => simp [encode, formatXYN_eq_wordXYN, decode, decodeFamily5]
  case sneVxVy => simp [encode, formatXYN_eq_wordXYN, decode, decodeFamily9]
  all_goals simp [encode, formatXYN_eq_wordXYN, decode, decodeFamily8]

/-- Settles O28: the two bytes are put together to the encoded word, which decodes to the instruction. -/
theorem decodeInvertsEncode : Obligations.DecodeInvertsEncode := by
  intro i
  rw [decodeBytes, opcodeOfBytes_highByte_lowByte, decode_encode]

/-- Settles O29. -/
theorem encodeInvertsDecode : Obligations.EncodeInvertsDecode := fun _ _ => encode_of_decode

/-! A row of the opcode map fixes each field that its mask covers whole. -/

section
variable {w : Word}

theorem and_mask_of_covers {r : OpcodeRow} (h : r.covers w = true) : w &&& r.mask = r.value := by
  simpa [OpcodeRow.covers] using h

/-- A field whose bits are all in the mask is the same in the word as in the row. -/
theorem extractLsb'_of_covers {r : OpcodeRow} {start len : Nat} (h : r.covers w = true)
    (hmask : r.mask.extractLsb' start len = BitVec.allOnes len) :
    w.extractLsb' start len = r.value.extractLsb' start len := by
  rw [← and_mask_of_covers h, BitVec.extractLsb'_and, hmask, BitVec.and_allOnes]

/-- Two rows that a common word matches agree where both masks look. -/
theorem value_and_mask_of_covers {a b : OpcodeRow} (ha : a.covers w = true) (hb : b.covers w = true) :
    a.value &&& b.mask = b.value &&& a.mask := by
  rw [← and_mask_of_covers ha, ← and_mask_of_covers hb, BitVec.and_assoc, BitVec.and_assoc, BitVec.and_comm a.mask]

/-- No two rows match a common word: different rows differ in a bit that both masks look at. -/
theorem eq_of_covers {a b : OpcodeRow} (hma : a ∈ opcodeRows) (hmb : b ∈ opcodeRows) (ha : a.covers w = true)
    (hb : b.covers w = true) : a = b := by
  have hdiffer : ∀ a ∈ opcodeRows, ∀ b ∈ opcodeRows, a.value &&& b.mask = b.value &&& a.mask → a = b := by decide
  exact hdiffer a hma b hmb (value_and_mask_of_covers ha hb)

/-- A word of a family whose rows are told apart by a key field matches no row if its key is none of theirs. -/
theorem covers_eq_false_of_key {f : Nibble} {start len : Nat} {keys : List (BitVec len)}
    (hrows : ∀ r ∈ opcodeRows, fieldFamily r.value = f →
      r.mask.extractLsb' start len = BitVec.allOnes len ∧ r.value.extractLsb' start len ∈ keys)
    (hf : fieldFamily w = f) (hkey : w.extractLsb' start len ∉ keys) : ∀ r ∈ opcodeRows, r.covers w = false := by
  intro r hr
  by_contra hc
  rw [Bool.not_eq_false] at hc
  have hfam : fieldFamily w = fieldFamily r.value :=
    extractLsb'_of_covers hc ((by decide : ∀ r ∈ opcodeRows, fieldFamily r.mask = 0xF) r hr)
  obtain ⟨hmask, hmem⟩ := hrows r hr (hfam.symm.trans hf)
  exact hkey (extractLsb'_of_covers hc hmask ▸ hmem)

/-! The keys of the six families that look further (R64): a word the second level rejects has none of them. -/

variable {e : UnknownWord}

theorem covers_eq_false_of_decodeFamily0 (hf : fieldFamily w = 0x0) (h : decodeFamily0 w = .error e) :
    ∀ r ∈ opcodeRows, r.covers w = false := by
  refine covers_eq_false_of_key (start := 0) (keys := [0x0E0#12, 0x0EE]) (by decide) hf fun (hk : fieldNNN w ∈ _) => ?_
  unfold decodeFamily0 at h
  split at h <;> simp_all

theorem covers_eq_false_of_decodeFamily5 (hf : fieldFamily w = 0x5) (h : decodeFamily5 w = .error e) :
    ∀ r ∈ opcodeRows, r.covers w = false := by
  refine covers_eq_false_of_key (start := 0) (keys := [0x0#4]) (by decide) hf fun (hk : fieldN w ∈ _) => ?_
  unfold decodeFamily5 at h
  split at h <;> simp_all

theorem covers_eq_false_of_decodeFamily8 (hf : fieldFamily w = 0x8) (h : decodeFamily8 w = .error e) :
    ∀ r ∈ opcodeRows, r.covers w = false := by
  refine covers_eq_false_of_key (start := 0) (keys := [0x0#4, 0x1, 0x2, 0x3, 0x4, 0x5, 0x6, 0x7, 0xE])
    (by decide) hf fun (hk : fieldN w ∈ _) => ?_
  unfold decodeFamily8 at h
  split at h <;> simp_all

theorem covers_eq_false_of_decodeFamily9 (hf : fieldFamily w = 0x9) (h : decodeFamily9 w = .error e) :
    ∀ r ∈ opcodeRows, r.covers w = false := by
  refine covers_eq_false_of_key (start := 0) (keys := [0x0#4]) (by decide) hf fun (hk : fieldN w ∈ _) => ?_
  unfold decodeFamily9 at h
  split at h <;> simp_all

theorem covers_eq_false_of_decodeFamilyE (hf : fieldFamily w = 0xE) (h : decodeFamilyE w = .error e) :
    ∀ r ∈ opcodeRows, r.covers w = false := by
  refine covers_eq_false_of_key (start := 0) (keys := [0x9E#8, 0xA1]) (by decide) hf fun (hk : fieldKK w ∈ _) => ?_
  unfold decodeFamilyE at h
  split at h <;> simp_all

theorem covers_eq_false_of_decodeFamilyF (hf : fieldFamily w = 0xF) (h : decodeFamilyF w = .error e) :
    ∀ r ∈ opcodeRows, r.covers w = false := by
  refine covers_eq_false_of_key (start := 0) (keys := [0x07#8, 0x0A, 0x15, 0x18, 0x1E, 0x29, 0x33, 0x55, 0x65])
    (by decide) hf fun (hk : fieldKK w ∈ _) => ?_
  unfold decodeFamilyF at h
  split at h <;> simp_all

/-- A rejected word matches no row (R66). -/
theorem covers_eq_false_of_decode_error (h : decode w = .error e) : ∀ r ∈ opcodeRows, r.covers w = false := by
  unfold decode at h
  split at h
  case h_1 hf => exact covers_eq_false_of_decodeFamily0 hf h
  case h_6 hf => exact covers_eq_false_of_decodeFamily5 hf h
  case h_9 hf => exact covers_eq_false_of_decodeFamily8 hf h
  case h_10 hf => exact covers_eq_false_of_decodeFamily9 hf h
  case h_15 hf => exact covers_eq_false_of_decodeFamilyE hf h
  case h_16 =>
    have hf : fieldFamily w = 0xF := by
      simp only [imp_false] at *
      bv_omega
    exact covers_eq_false_of_decodeFamilyF hf h
  all_goals cases h

end

/-- Settles O31: the rows are different from one another, and different rows match no common word. -/
theorem opcodeRowsDoNotOverlap : Obligations.OpcodeRowsDoNotOverlap := by
  have hnodup : opcodeRows.Nodup := by decide
  exact ⟨rfl, hnodup.imp_of_mem fun ha hb hne w hw => hne (eq_of_covers ha hb hw.1 hw.2)⟩

/-- Settles O30: a word that matches a row is not rejected, and the row of what it decodes to is that row, since two
rows never match a common word. -/
theorem decoderAgreesWithTheOpcodeMap : Obligations.DecoderAgreesWithTheOpcodeMap := by
  intro w
  refine ⟨fun r hr hc => ?_, fun hbad => decode_error_of_no_row (by simpa [wordWellFormed] using hbad)⟩
  cases hd : decode w with
  | error e => simp [covers_eq_false_of_decode_error hd r hr] at hc
  | ok i => exact ⟨i, rfl, eq_of_covers (row_mem_opcodeRows i) hr (row_covers_of_decode hd) hc⟩

/-- Settles O32. -/
theorem sampleWordsDecode : Obligations.SampleWordsDecode := by
  unfold Obligations.SampleWordsDecode
  decide

end Sys2Proof
end

section
/-! What the instructions with two outcomes answer, by the condition that decides (R90, R92, R125, R131, R140, R141), and
what a cycle answers where nothing is executed (R155, R156). -/

namespace Sys2Proof.Machine

section
variable {s : State}

/-! `Dxyn` (R131), by whether the sprite is in range (R46). -/

theorem exec_drwVxVyNibble_of_inRange (x y : Reg) {n : Nibble} (h : spriteInRange s n = true) :
    exec (.drwVxVyNibble x y n) s =
      .next (setDisp
        (writeFlag s (drawSprite s.disp (readV s x).toNat (readV s y).toNat (spriteBytes s n)).2)
        (drawSprite s.disp (readV s x).toNat (readV s y).toNat (spriteBytes s n)).1) :=
  if_pos h

theorem exec_drwVxVyNibble_of_outOfRange (x y : Reg) {n : Nibble} (h : spriteInRange s n = false) :
    exec (.drwVxVyNibble x y n) s = .next (takeFault .dataAddressOutOfRange (s.pc - 2) s) :=
  if_neg (by simp [h])

/-! `Ex9E` and `ExA1` (R140, R141), by whether the register names a key. -/

theorem exec_skpVx_of_key {x : Reg} {k : Fin 16} (h : keyIndex (readV s x) = some k) :
    exec (.skpVx x) s = .next (skipIf (keyDown s k) s) := by
  simp only [exec, execSkpVx, h]

theorem exec_skpVx_of_noKey {x : Reg} (h : keyIndex (readV s x) = none) :
    exec (.skpVx x) s = .next (takeFault .keyIndexOutOfRange (s.pc - 2) s) := by
  simp only [exec, execSkpVx, h, raise_eq]

theorem exec_sknpVx_of_key {x : Reg} {k : Fin 16} (h : keyIndex (readV s x) = some k) :
    exec (.sknpVx x) s = .next (skipIf (!keyDown s k) s) := by
  simp only [exec, execSknpVx, h]

theorem exec_sknpVx_of_noKey {x : Reg} (h : keyIndex (readV s x) = none) :
    exec (.sknpVx x) s = .next (takeFault .keyIndexOutOfRange (s.pc - 2) s) := by
  simp only [exec, execSknpVx, h, raise_eq]

section
variable {i : Instr} {x : Reg} (hi : i = .skpVx x ∨ i = .sknpVx x)
include hi

/-- The two key skips are one form: they differ in the sense of the condition (R140, R141). -/
theorem exec_keySkip : ∃ up : Bool, ∀ s : State,
    (∀ k, keyIndex (readV s x) = some k → exec i s = .next (skipIf (keyDown s k ^^ up) s)) ∧
      (keyIndex (readV s x) = none → exec i s = .next (takeFault .keyIndexOutOfRange (s.pc - 2) s)) := by
  obtain rfl | rfl := hi
  · exact ⟨false, fun s => ⟨fun k hk => by rw [exec_skpVx_of_key hk, Bool.xor_false], exec_skpVx_of_noKey⟩⟩
  · exact ⟨true, fun s => ⟨fun k hk => by rw [exec_sknpVx_of_key hk, Bool.xor_true], exec_sknpVx_of_noKey⟩⟩

theorem exec_keySkip_cases {t : State} (he : exec i s = .next t) :
    (∃ c, t = skipIf c s) ∨ t = takeFault .keyIndexOutOfRange (s.pc - 2) s := by
  obtain ⟨up, hspec⟩ := exec_keySkip hi
  obtain ⟨hkey, hnone⟩ := hspec s
  cases hk : keyIndex (readV s x) with
  | none => cases (hnone hk).symm.trans he; exact .inr rfl
  | some k => cases (hkey k hk).symm.trans he; exact .inl ⟨_, rfl⟩

end

/-! The return and the call, as alternatives: an entry to take off or none, an entry free or none. -/

theorem exec_ret_cases (s : State) :
    (∃ k : Fin 16, s.sp.val = k.val + 1 ∧ exec .ret s = .next (setPc { s with sp := k.castSucc } s.stack[k])) ∨
      (s.sp.val = 0 ∧ exec .ret s = .next (takeFault .stackUnderflow (s.pc - 2) s)) := by
  by_cases h : s.sp.val = 0
  · exact .inr ⟨h, exec_ret_of_empty h⟩
  · have hk : s.sp.val = (⟨s.sp.val - 1, by omega⟩ : Fin 16).val + 1 := by simp only; omega
    exact .inl ⟨_, hk, exec_ret_of_sp_eq hk⟩

theorem exec_callAddr_cases (nnn : Addr) (s : State) :
    (∃ h : s.sp.val < 16, exec (.callAddr nnn) s = .next (setPc
        { s with stack := s.stack.set s.sp.val s.pc, sp := ⟨s.sp.val + 1, by omega⟩ } (zextAddr nnn))) ∨
      (s.sp.val = 16 ∧ exec (.callAddr nnn) s = .next (takeFault .stackOverflow (s.pc - 2) s)) := by
  by_cases h : s.sp.val < 16
  · exact .inl ⟨h, exec_callAddr_of_lt nnn h⟩
  · have hfull : s.sp.val = 16 := by omega
    exact .inr ⟨hfull, exec_callAddr_of_full nnn hfull⟩

theorem exec_ldVxMemI_cases (x : Reg) (s : State) :
    (dataAddr s x.val ≤ 0xFFF ∧ exec (.ldVxMemI x) s = .next (setRegs s (regsLoaded s x))) ∨
      (0xFFF < dataAddr s x.val ∧ exec (.ldVxMemI x) s = .next (takeFault .dataAddressOutOfRange (s.pc - 2) s)) := by
  obtain h | h := Nat.lt_or_ge 0xFFF (dataAddr s x.val)
  · exact .inr ⟨h, exec_ldVxMemI_of_gt h⟩
  · exact .inl ⟨h, exec_ldVxMemI_of_le h⟩

end

/-! The cycle that executes nothing. -/

theorem step_of_halted {s : State} (h : s.fault ≠ .none) : step s = .next s :=
  if_pos ((halted_iff s).2 h)

theorem step_of_fetch_outOfRange {s : State} (hf : s.fault = .none) (hp : 0xFFE < s.pc.toNat) :
    step s = .next (fetchFault s) := by
  have hout : ¬ fetchInRange s = true := by rw [fetchInRange_iff]; omega
  simp [step, (halted_eq_false_iff s).2 hf, hout]

/-! The cycle as an operation of the host. -/

theorem perform_cycle_of_step {s t : State} (h : step s = .next t) : perform .cycle s = .next (t, .unit) := by
  simp only [perform, h]

/-- Settles O39, by the branches of the cycle (R80): only the unknown-opcode path emits an event. -/
theorem everyCycleCompletes : Obligations.EveryCycleCompletes := by
  intro s
  by_cases hf : s.fault = .none
  · obtain hout | hin := Nat.lt_or_ge 0xFFE s.pc.toNat
    · exact ⟨_, step_of_fetch_outOfRange hf hout, .inl rfl⟩
    · cases hd : decode (fetchOpcode s) with
      | error e => exact ⟨_, step_of_decode_error hf hin hd, .inr ⟨_, rfl⟩⟩
      | ok i =>
        obtain ⟨t, ht, hlog, -⟩ := exec_cases i (advancePc s)
        exact ⟨t, (step_of_decode_ok hf hin hd).trans ht, .inl hlog⟩
  · exact ⟨s, step_of_halted hf, .inl rfl⟩

/-- What the cycle answers as an operation of the host. -/
theorem step_of_perform_cycle {s t : State} {r : Reply} (h : perform .cycle s = .next (t, r)) :
    step s = .next t ∧ r = .unit := by
  obtain ⟨u, hu, -⟩ := everyCycleCompletes s
  cases (perform_cycle_of_step hu).symm.trans h
  exact ⟨hu, rfl⟩

end Sys2Proof.Machine
end

section
/-! The invariant of R30: every instruction, every cycle and every operation of the host keeps it. -/

namespace Sys2Proof.Machine

section
variable {s t : State}

/-- The invariant speaks of memory, the stack and `PC` only. -/
theorem Inv.of_pc_le (h : Inv s) (hmem : t.mem = s.mem) (hstack : t.stack = s.stack) (hsp : t.sp = s.sp)
    (hpc : t.pc.toNat ≤ 0x10FE) : Inv t where
  mem := by rw [hmem]; exact h.mem
  pc := hpc
  stack := by unfold StackInRange; rw [hstack, hsp]; exact h.stack

theorem Inv.of_eq (h : Inv s) (hmem : t.mem = s.mem) (hstack : t.stack = s.stack) (hsp : t.sp = s.sp)
    (hpc : t.pc = s.pc) : Inv t :=
  h.of_pc_le hmem hstack hsp (by rw [hpc]; exact h.pc)

theorem Inv.setMem (h : Inv s) {m : Memory} (hm : memWf m = true) : Inv (setMem s m) := ⟨hm, h.pc, h.stack⟩

/-- What the fetch leaves while it is in range (R45, R82): a `PC` from 2 to 0x1000. -/
structure Fetched (s : State) : Prop where
  two_le : 2 ≤ s.pc.toNat
  le : s.pc.toNat ≤ 0x1000

theorem fetched_advancePc (h : fetchInRange s = true) : Fetched (advancePc s) := by
  rw [fetchInRange_iff] at h
  constructor <;> rw [advancePc_pc] <;> bv_omega

section
variable (h : Inv s) (hp : Fetched s)
include h hp

/-- A fault takes `PC` back to `pc0` (R152). -/
theorem inv_takeFault (f : FaultStatus) : Inv (takeFault f (s.pc - 2) s) := by
  obtain ⟨hlow, hhigh⟩ := hp
  exact h.of_pc_le rfl rfl rfl (by rw [takeFault_pc]; bv_omega)

theorem inv_skipIf (c : Bool) : Inv (skipIf c s) := by
  have := hp.le
  refine h.of_pc_le (skipIf_mem c s) (skipIf_stack c s) (skipIf_sp c s) ?_
  rw [skipIf_pc_toNat]
  split <;> omega

/-- A pushed return address is the advanced `PC` (R92). -/
theorem inv_exec_callAddr {nnn : Addr} (he : exec (.callAddr nnn) s = .next t) : Inv t := by
  obtain ⟨hroom, e⟩ | ⟨-, e⟩ := exec_callAddr_cases nnn s <;> cases e.symm.trans he
  · refine ⟨h.mem, ?_, fun k hk => ?_⟩
    · have := nnn.isLt
      rw [PcInRange, setPc_pc, toNat_zextAddr]
      omega
    · simp only [setPc_stack, setPc_sp, Fin.getElem_fin, Vector.getElem_set] at hk ⊢
      split
      · exact hp.le
      · exact h.stack k (by omega)
  · exact inv_takeFault h hp _

/-- A popped return address was in use (R90). -/
theorem inv_exec_ret (he : exec .ret s = .next t) : Inv t := by
  obtain ⟨k, hk, e⟩ | ⟨-, e⟩ := exec_ret_cases s <;> cases e.symm.trans he
  · have hret := h.stack k (by omega)
    refine ⟨h.mem, ?_, fun j hj => h.stack j ?_⟩
    · rw [PcInRange, setPc_pc]; omega
    · simp at hj; omega
  · exact inv_takeFault h hp _

/-- A store at `I` is inside memory or is not made at all (R46). -/
theorem inv_storeAtI {m : Nat} {ws : List Byte} (hlen : ws.length = m + 1) (he : storeAtI s m ws = .next t) : Inv t := by
  obtain ⟨hin, e⟩ | ⟨-, e⟩ := storeAtI_cases s m ws <;> cases e.symm.trans he
  · exact h.setMem (writeBytes_wf h.mem (by simp only [Config.memSize]; omega))
  · exact inv_takeFault h hp _

/-- Every instruction keeps the invariant, from the state the fetch leaves. -/
theorem exec_keeps_inv {i : Instr} (he : exec i s = .next t) : Inv t := by
  have hpc := hp.le
  cases i
  case ret => exact inv_exec_ret h hp he
  case callAddr => exact inv_exec_callAddr h hp he
  case ldBVx x => exact inv_storeAtI h hp (length_bcdDigits _) he
  case ldMemIVx x => exact inv_storeAtI h hp (length_regsUpTo s x) he
  case jpAddr nnn =>
    cases he
    have := nnn.isLt
    exact h.of_pc_le rfl rfl rfl (by rw [setPc_pc, toNat_zextAddr]; omega)
  case jpV0Addr nnn =>
    cases he
    have := nnn.isLt
    have := (readV s 0).isLt
    exact h.of_pc_le rfl rfl rfl (by rw [setPc_pc, toNat_zextAddr_add_zextByte]; omega)
  case seVxByte | sneVxByte | seVxVy | sneVxVy => cases he; exact inv_skipIf h hp _
  case ldVxMemI x =>
    obtain ⟨-, e⟩ | ⟨-, e⟩ := exec_ldVxMemI_cases x s <;> cases e.symm.trans he
    · exact h.of_eq (setRegs_mem s _) (setRegs_stack s _) (setRegs_sp s _) (setRegs_pc s _)
    · exact inv_takeFault h hp _
  case drwVxVyNibble x y n =>
    cases hr : spriteInRange s n
    · cases (exec_drwVxVyNibble_of_outOfRange x y hr).symm.trans he; exact inv_takeFault h hp _
    · cases (exec_drwVxVyNibble_of_inRange x y hr).symm.trans he; exact h.of_eq rfl rfl rfl rfl
  case skpVx x | sknpVx x =>
    obtain ⟨c, rfl⟩ | rfl := exec_keySkip_cases (x := x) (by simp) he
    · exact inv_skipIf h hp c
    · exact inv_takeFault h hp _
  case ldVxK x =>
    cases hk : lowestKeyDown s
    · cases (exec_ldVxK_of_none x hk).symm.trans he
      have := hp.two_le
      exact h.of_pc_le rfl rfl rfl (by rw [setPc_pc]; bv_omega)
    · cases (exec_ldVxK_of_some x hk).symm.trans he; exact h.of_eq rfl rfl rfl rfl
  all_goals cases he; exact h.of_eq rfl rfl rfl rfl

end

/-- Settles O45, by what the cycle did; the fetch check keeps the advanced `PC` at most 0x1000. -/
theorem everyCycleKeepsInv : Obligations.EveryCycleKeepsInv := by
  intro s t h hstep
  obtain ⟨-, rfl⟩ | ⟨-, -, rfl⟩ | ⟨-, hin, -, rfl⟩ | ⟨-, hin, i, -, he⟩ := step_cases hstep
  · exact h
  · exact h.of_eq rfl rfl rfl rfl
  · have hp := (fetched_advancePc hin).le
    have hle : (skipUnknown (fetchOpcode s) s).pc.toNat ≤ 0x10FE := hp.trans (by decide)
    exact h.of_pc_le rfl rfl rfl hle
  · have hp := fetched_advancePc hin
    have hinv : Inv (advancePc s) := h.of_pc_le rfl rfl rfl (hp.le.trans (by decide))
    exact exec_keeps_inv hinv hp he

/-- Settles O44. -/
theorem resetStateMeetsInv : Obligations.ResetStateMeetsInv :=
  ⟨reset_memWf, by unfold PcInRange; decide, fun k hk => absurd hk (Nat.not_lt_zero _)⟩

/-- R30: the invariant is one of the block, so a state with the block of reset meets it. -/
theorem inv_of_toBlock_reset (h : s.toBlock = Block.reset) : Inv s := by
  have hs : s.toBlock = State.reset.toBlock := h
  exact resetStateMeetsInv.of_pc_le (congrArg Block.mem hs) (congrArg Block.stack hs) (congrArg Block.sp hs)
    (by rw [congrArg Block.pc hs]; decide)

/-- A program that fits lies inside memory, and no return address is in use after its load (R181). -/
theorem inv_loadImage {bytes : List Byte} (hfit : bytes.length ≤ 3584) (h : Inv s) : Inv (loadImage bytes s) where
  mem := writeBytes_wf h.mem (by simp only [Config.loadAddr, Config.memSize]; omega)
  pc := (by decide : (0x200#16).toNat ≤ 0x10FE)
  stack := fun _ hk => absurd hk (Nat.not_lt_zero _)

/-- Settles O46: beside the cycle and the load, an operation leaves memory, the stack and `PC` or puts them at their
reset values. -/
theorem everyOperationKeepsInv : Obligations.EveryOperationKeepsInv := by
  intro op s t r h hop
  cases op
  case reset => cases hop; exact inv_of_toBlock_reset rfl
  case loadProgram bytes =>
    obtain hbig | hfit := Nat.lt_or_ge 3584 bytes.length
    · cases (perform_loadProgram_of_gt hbig s).symm.trans hop; exact h
    · cases (perform_loadProgram_of_le hfit s).symm.trans hop; exact inv_loadImage hfit h
  case cycle =>
    obtain ⟨hstep, -⟩ := step_of_perform_cycle hop
    exact everyCycleKeepsInv s t h hstep
  all_goals cases hop; exact h.of_eq rfl rfl rfl rfl

/-- Settles O47: the invariant holds at reset and every operation keeps it; the ranges of `SP` and `FAULT` are those of
their types. -/
theorem reachableStatesAreInRange : Obligations.ReachableStatesAreInRange := by
  intro s hs
  have hinv : Inv s := by
    induction hs with
    | reset => exact resetStateMeetsInv
    | perform op _ hop ih => exact everyOperationKeepsInv op _ _ _ ih hop
  exact ⟨by omega, by cases s.fault <;> decide, hinv.pc, hinv.stack⟩
end
end Sys2Proof.Machine
end

section
/-! Families 41 to 45, beside the sections above: the return after a call, the random byte, the index register, the
round trip of a stored block, and the key skips. -/

namespace Sys2Proof.Machine

/-! The registers after an update of another piece, and VF after a flag is written. -/

@[simp] theorem readV_setI (s : State) (w : Word) (r : Reg) : readV (setI s w) r = readV s r := rfl
@[simp] theorem readV_setDisp (s : State) (d : Display) (r : Reg) : readV (setDisp s d) r = readV s r := rfl
@[simp] theorem readV_nextDraw (s : State) (r : Reg) : readV (nextDraw s) r = readV s r := rfl

theorem readV_writeFlag_vf (s : State) (c : Bool) : readV (writeFlag s c) 15 = flagByte c := readV_writeV_same s 15 _

theorem onlyRegs_writeFlag (s : State) (c : Bool) : OnlyRegs [15] s (writeFlag s c) := onlyRegs_writeV s 15 _

theorem onlyChanges_writeFlag (s : State) (c : Bool) : OnlyChanges [.v] s (writeFlag s c) := onlyChanges_writeV s _ _

/-- Settles O5: the return takes off the entry the call put on, which holds the `PC` the call's fetch left. -/
theorem returnUndoesCall : Obligations.ReturnUndoesCall := by
  intro nnn s hroom
  have hret := exec_ret_of_sp_eq (s := advancePc (setPc
    { s with stack := s.stack.set s.sp.val s.pc, sp := ⟨s.sp.val + 1, by omega⟩ } (zextAddr nnn)))
    (k := ⟨s.sp.val, hroom⟩) rfl
  refine ⟨_, _, exec_callAddr_of_lt nnn hroom, hret, fun p hp => ?_⟩
  cases p <;> simp_all [Unchanged, keyDown, readV]

/-- Settles O12: one write of `V[x]`, of the draw masked bit by bit, and one draw consumed. -/
theorem randomMasksOneDraw : Obligations.RandomMasksOneDraw := by
  intro x kk s
  refine ⟨by simp [decode, kk.isLt], _, rfl, ?_, onlyRegs_writeV s x _, rfl, fun b _ => ?_⟩
  · exact onlyChanges_trans (onlyChanges_mono (onlyChanges_writeV s x _) (by simp))
      (onlyChanges_mono (onlyChanges_nextDraw _) (by simp))
  · rw [readV_nextDraw, readV_writeV_same, BitVec.getLsbD_and, currentDraw]

/-- Settles O14: the flag is computed from the old `I` and `V[x]`, before VF is written (R101). -/
theorem addIndexFlagsTheExactSum : Obligations.AddIndexFlagsTheExactSum := by
  intro x s
  refine ⟨by simp [decode, decodeFamilyF], _, rfl, ?_, onlyRegs_writeFlag s _, ?_, ?_⟩
  · exact onlyChanges_trans (onlyChanges_mono (onlyChanges_writeFlag s _) (by simp))
      (onlyChanges_mono (onlyChanges_setI _ _) (by simp))
  · rw [setI_i, BitVec.toNat_add, toNat_zextByte]
  · rw [readV_setI, readV_writeFlag_vf, flagByte, indexOverflow]
    simp only [decide_eq_true_eq]

/-- Settles O15: five times a byte is below 65536, so the product is exact. -/
theorem glyphAddressIsFiveTimesTheByte : Obligations.GlyphAddressIsFiveTimesTheByte := by
  intro x s
  refine ⟨by simp [decode, decodeFamilyF], _, rfl, onlyChanges_setI s _, ?_⟩
  have := (readV s x).isLt
  have h5 : (5 : Word).toNat = 5 := rfl
  rw [setI_i, glyphAddr, BitVec.toNat_mul, toNat_zextByte, h5]
  omega

/-- What a completed `Fx55` left in memory, byte by byte (R124). -/
theorem readByte_of_exec_ldMemIVx {x : Reg} {s t : State} (hin : dataAddr s x.val ≤ 0xFFF)
    (he : exec (.ldMemIVx x) s = .next t) {k : Reg} (hk : k ≤ x) : readByte t.mem (dataAddr s k.val) = readV s k := by
  obtain ⟨-, hstore, -⟩ := blockStoreCopiesRegisters x s
  obtain ⟨t', ht', -, hbytes, -⟩ := hstore hin
  cases ht'.symm.trans he
  exact hbytes k hk

/-- Settles O19: the load reads at `I + k` what the store put there. -/
theorem blockStoreThenLoadRestores : Obligations.BlockStoreThenLoadRestores := by
  intro x s t u hin he hmem hi
  have haddr : ∀ k, dataAddr u k = dataAddr s k := fun k => by rw [dataAddr, dataAddr, hi]
  refine ⟨_, exec_ldVxMemI_of_le ((haddr x.val).le.trans hin), fun k hk => ?_⟩
  rw [readV_setRegs_regsLoaded, if_pos hk, haddr, hmem, readByte_of_exec_ldMemIVx hin he hk]

/-- Settles O20: the two bytes of the fetch are `V[k]` and `V[k + 1]` as stored. -/
theorem storedBytesAreFetched : Obligations.StoredBytesAreFetched := by
  intro x k k' s t u hin he hk' hsucc hmem hpc
  have hk : k ≤ x := by rw [Fin.le_def] at *; omega
  have hnext : dataAddr s k.val + 1 = dataAddr s k'.val := by rw [dataAddr, dataAddr, hsucc, Nat.add_assoc]
  rw [fetchOpcode_toNat, hpc, hnext, hmem, hmem, readByte_of_exec_ldMemIVx hin he hk,
    readByte_of_exec_ldMemIVx hin he hk']

/-! A register names key `k` when it holds `k`, and none above 15 (R140). -/

theorem keyIndex_eq_some {b : Byte} {k : Fin 16} (h : b.toNat = k.val) : keyIndex b = some k := by
  obtain ⟨j, hj, e⟩ | ⟨hbig, -⟩ := keyIndex_cases b
  · rw [e, Fin.ext (hj.trans h)]
  · omega

theorem keyIndex_eq_none {b : Byte} (h : 15 < b.toNat) : keyIndex b = none := by
  obtain ⟨j, hj, -⟩ | ⟨-, e⟩ := keyIndex_cases b
  · omega
  · exact e

/-- Settles O25: the two skips differ in the sense of their condition. -/
theorem keySkipsReadTheNamedKey : Obligations.KeySkipsReadTheNamedKey := by
  intro x s
  refine ⟨by simp [decode, decodeFamilyE], by simp [decode, decodeFamilyE], fun k hk => ?_, fun hbig => ?_⟩
  · have hkey := keyIndex_eq_some hk
    refine ⟨⟨_, exec_skpVx_of_key hkey, onlyChanges_skipIf _ s, skipIf_pc_toNat _ s⟩,
      _, exec_sknpVx_of_key hkey, onlyChanges_skipIf _ s, (skipIf_pc_toNat _ s).trans ?_⟩
    cases keyDown s k <;> rfl
  · have hnone := keyIndex_eq_none hbig
    exact ⟨raises_of_exec_eq (exec_skpVx_of_noKey hnone), raises_of_exec_eq (exec_sknpVx_of_noKey hnone)⟩

end Sys2Proof.Machine
end

section
/-! Family 44_display.md: the sprite. A sprite covers a cell at most once, so drawing inverts exactly the covered
cells, whatever the order of the rule's loops (R131, R133). -/

namespace Sys2Proof.Machine

/-- Drawing a list of different cells inverts each of them, and hits when one was on before the drawing. -/
theorem foldl_drawCell {ps : List CellPos} (hnodup : ps.Nodup) (d : Display) (hit : Bool) :
    (∀ q, cellOn (ps.foldl drawCell (d, hit)).1 q = (cellOn d q ^^ decide (q ∈ ps))) ∧
      ((ps.foldl drawCell (d, hit)).2 = true ↔ hit = true ∨ ∃ q ∈ ps, cellOn d q = true) := by
  induction ps generalizing d hit with
  | nil => simp
  | cons p ps ih =>
    obtain ⟨hp, hps⟩ := List.nodup_cons.1 hnodup
    obtain ⟨hcells, hhit⟩ := ih hps (flipCell d p) (hit || cellOn d p)
    refine ⟨fun q => ?_, ?_⟩
    · rw [List.foldl_cons]
      refine (hcells q).trans ?_
      rw [cellOn_flipCell]
      by_cases hq : q = p
      · subst hq; simp [hp]
      · simp [hq]
    · rw [List.foldl_cons]
      refine hhit.trans ?_
      have hsame : ∀ q ∈ ps, cellOn (flipCell d p) q = cellOn d q := by
        intro q hq
        have hne : q ≠ p := fun e => hp (e ▸ hq)
        rw [cellOn_flipCell]; simp [hne]
      have hrest : (∃ q ∈ ps, cellOn (flipCell d p) q = true) ↔ ∃ q ∈ ps, cellOn d q = true :=
        exists_congr fun q => and_congr_right fun hq => by rw [hsame q hq]
      rw [hrest, Bool.or_eq_true, or_assoc]
      simp

/-- Within 8 columns and 32 rows no two sprite bits fall on the same cell, in spite of the wraparound (R133). -/
theorem spriteCell_inj {cx cy i i' j j' : Nat} (hi : i < 8) (hi' : i' < 8) (hj : j < 32) (hj' : j' < 32)
    (h : spriteCell cx cy i j = spriteCell cx cy i' j') : i = i' ∧ j = j' := by
  simp only [spriteCell, Prod.mk.injEq, Fin.mk.injEq] at h
  omega

theorem nodup_rowCells (cx cy : Nat) {j : Nat} (hj : j < 32) (b : Byte) : (rowCells cx cy j b).Nodup := by
  refine List.Nodup.map_on (fun i hi i' hi' h => ?_) (List.nodup_range.filter _)
  simp only [List.mem_filter, List.mem_range] at hi hi'
  exact (spriteCell_inj hi.1 hi'.1 hj hj h).1

theorem nodup_spriteCells (cx cy : Nat) {j : Nat} {bs : List Byte} (h : j + bs.length ≤ 32) :
    (spriteCells cx cy j bs).Nodup := by
  induction bs generalizing j with
  | nil => exact List.nodup_nil
  | cons b bs ih =>
    rw [List.length_cons] at h
    refine (nodup_rowCells cx cy (by omega) b).append (ih (by omega)) fun p hrow hrest => ?_
    obtain ⟨i, hi, -, rfl⟩ := (mem_rowCells ..).1 hrow
    obtain ⟨k, hk, i', hi', -, hp⟩ := (mem_spriteCells ..).1 hrest
    have := (spriteCell_inj hi hi' (by omega) (by omega) hp).2
    omega

section
variable {s : State} {n : Nibble}

/-- The cells the rule's loops visit are those the claims call covered. -/
theorem mem_spriteCells_iff_spriteCovers (x y : Reg) (p : CellPos) :
    p ∈ spriteCells (readV s x).toNat (readV s y).toNat 0 (spriteBytes s n) ↔ SpriteCovers s x y n p := by
  simp only [mem_spriteCells, spriteBytes, getElem_readBytes, length_readBytes, SpriteCovers, dataAddr, spriteCell,
    Prod.ext_iff, Fin.ext_iff, Nat.add_zero, Nat.zero_add, exists_prop]

theorem spriteInRange_of_forall (h : ∀ j < n.toNat, dataAddr s j ≤ 0xFFF) : spriteInRange s n = true := by
  rw [spriteInRange_iff]
  obtain h0 | hpos := Nat.eq_zero_or_pos n.toNat
  · exact .inl h0
  · exact .inr (h (n.toNat - 1) (by omega))

/-- What drawing a sprite does to the display and whether it hits, in terms of the covered cells. -/
theorem drawSprite_spec (s : State) (x y : Reg) (n : Nibble) :
    let drawn := drawSprite s.disp (readV s x).toNat (readV s y).toNat (spriteBytes s n)
    (∀ p, SpriteCovers s x y n p → cellOn drawn.1 p = !cellOn s.disp p) ∧
      (∀ p, ¬ SpriteCovers s x y n p → cellOn drawn.1 p = cellOn s.disp p) ∧
      (drawn.2 = true ↔ ∃ p, SpriteCovers s x y n p ∧ cellOn s.disp p = true) := by
  have hlen : 0 + (spriteBytes s n).length ≤ 32 := by
    have := n.isLt
    rw [spriteBytes, length_readBytes]
    omega
  obtain ⟨hcells, hhit⟩ := foldl_drawCell
    (nodup_spriteCells (readV s x).toNat (readV s y).toNat hlen) s.disp false
  simp only [mem_spriteCells_iff_spriteCovers, Bool.false_eq_true, false_or] at hhit
  refine ⟨fun p hp => (hcells p).trans ?_, fun p hp => (hcells p).trans ?_, hhit⟩
  · rw [decide_eq_true ((mem_spriteCells_iff_spriteCovers x y p).2 hp), Bool.xor_true]
  · rw [decide_eq_false (mt (mem_spriteCells_iff_spriteCovers x y p).1 hp), Bool.xor_false]

end

/-- Settles O22: the cells the loops visit are different from one another, so each is inverted once. -/
theorem drawInvertsTheCoveredCells : Obligations.DrawInvertsTheCoveredCells := by
  intro x y n s
  refine ⟨by simp [decode, n.isLt], fun hin => ?_⟩
  obtain ⟨hon, hoff, hhit⟩ := drawSprite_spec s x y n
  refine ⟨_, exec_drwVxVyNibble_of_inRange x y (spriteInRange_of_forall hin), ?_, onlyRegs_writeFlag s _, rfl,
    hon, hoff, fun hex => ?_, fun hno => ?_⟩
  · exact onlyChanges_trans (onlyChanges_mono (onlyChanges_writeFlag s _) (by simp))
      (onlyChanges_mono (onlyChanges_setDisp _ _) (by simp))
  · rw [readV_setDisp, readV_writeFlag_vf, hhit.2 hex]; rfl
  · rw [readV_setDisp, readV_writeFlag_vf, Bool.eq_false_iff.2 (mt hhit.1 hno)]; rfl

/-- Settles O23: the check of the whole range comes before any write (R46, R85). -/
theorem drawOutOfRangeFaults : Obligations.DrawOutOfRangeFaults := by
  intro x y n s hn hbig
  refine raises_of_exec_eq (exec_drwVxVyNibble_of_outOfRange x y ?_)
  rw [Bool.eq_false_iff, ne_eq, spriteInRange_iff]
  rw [dataAddr] at hbig
  omega

/-- A sprite covers some cell exactly when some byte of it has a set bit. -/
theorem exists_spriteCovers_iff (s : State) (x y : Reg) (n : Nibble) :
    (∃ p, SpriteCovers s x y n p) ↔ ∃ j < n.toNat, readByte s.mem (dataAddr s j) ≠ 0 := by
  constructor
  · rintro ⟨p, j, hj, i, -, hbit, -⟩
    exact ⟨j, hj, fun h0 => by simp [h0] at hbit⟩
  · rintro ⟨j, hj, hne⟩
    obtain ⟨b, hb, hbit⟩ : ∃ b < 8, (readByte s.mem (dataAddr s j)).getLsbD b = true := by
      by_contra hno
      exact hne (BitVec.eq_of_getLsbD_eq fun b hb => by simpa using fun h => hno ⟨b, hb, h⟩)
    exact ⟨spriteCell (readV s x).toNat (readV s y).toNat (7 - b) j, j, hj, 7 - b, by omega,
      by rwa [show 7 - (7 - b) = b by omega], rfl, rfl⟩

/-- Settles O24: the second draw covers the same cells, since the first changed neither of its coordinates, nor `I`,
nor memory, and finds exactly these on. -/
theorem drawingTwiceRestoresTheDisplay : Obligations.DrawingTwiceRestoresTheDisplay := by
  intro x y n s hx hy hin hblank
  obtain ⟨t, ht, hframe, hregs, -, hon, hoff, -, hmiss⟩ := (drawInvertsTheCoveredCells x y n s).2 hin
  have hi : t.i = s.i := hframe .i (by simp)
  have hmem : ∀ a, readByte t.mem a = readByte s.mem a := hframe .mem (by simp)
  have haddr : ∀ j, dataAddr (advancePc t) j = dataAddr s j := fun j => by rw [dataAddr, dataAddr, advancePc_i, hi]
  have hcovers : ∀ p, SpriteCovers (advancePc t) x y n p ↔ SpriteCovers s x y n p := by
    have hvx : readV (advancePc t) x = readV s x := hregs x (by simpa using hx)
    have hvy : readV (advancePc t) y = readV s y := hregs y (by simpa using hy)
    intro p
    simp only [SpriteCovers, haddr, advancePc_mem, hmem, hvx, hvy]
  obtain ⟨u, hu, -, -, -, hon', hoff', hhit', hmiss'⟩ :=
    (drawInvertsTheCoveredCells x y n (advancePc t)).2 fun j hj => (haddr j).le.trans (hin j hj)
  simp only [hcovers, advancePc_disp] at hon' hoff' hhit' hmiss'
  refine ⟨t, u, ht, hu, hmiss (by simp [hblank]), fun p => ?_, ?_⟩
  · by_cases hp : SpriteCovers s x y n p
    · rw [hon' p hp, hon p hp, hblank]; rfl
    · rw [hoff' p hp, hoff p hp, hblank]
  · rw [← exists_spriteCovers_iff s x y n]
    constructor
    · intro hv
      by_contra hno
      rw [hmiss' fun ⟨p, hp, _⟩ => hno ⟨p, hp⟩] at hv
      exact absurd hv (by decide)
    · rintro ⟨p, hp⟩
      exact hhit' ⟨p, hp, by rw [hon p hp, hblank]; rfl⟩

end Sys2Proof.Machine
end

section
/-! Family 40_fetch_dispatch.md and 60_exceptions.md: when a cycle records a fault, and that it does nothing else. -/

namespace Sys2Proof.Machine

/-- The cause the table of R151 names for each fault an instruction can raise, for what the fetched word decodes to. -/
def FaultCause (decoded : Except UnknownWord Instr) (s : State) : FaultStatus → Prop
  | .none => False
  | .fetchOutOfRange => False
  | .stackOverflow => s.sp.val = 16 ∧ ∃ nnn, decoded = .ok (.callAddr nnn)
  | .stackUnderflow => s.sp.val = 0 ∧ decoded = .ok .ret
  | .dataAddressOutOfRange =>
    (∃ x y n, decoded = .ok (.drwVxVyNibble x y n) ∧ 1 ≤ n.toNat ∧ 0xFFF < s.i.toNat + n.toNat - 1) ∨
      (∃ x, decoded = .ok (.ldBVx x) ∧ 0xFFF < s.i.toNat + 2) ∨
      (∃ x, decoded = .ok (.ldMemIVx x) ∧ 0xFFF < s.i.toNat + x.val) ∨
      (∃ x, decoded = .ok (.ldVxMemI x) ∧ 0xFFF < s.i.toNat + x.val)
  | .keyIndexOutOfRange =>
    ∃ x, (decoded = .ok (.skpVx x) ∨ decoded = .ok (.sknpVx x)) ∧ 15 < (readV s x).toNat

/-- The cause of each fault a cycle can record: the fetch check comes first (R163). -/
def CycleFaultCause (s : State) : FaultStatus → Prop
  | .fetchOutOfRange => 0xFFE < s.pc.toNat
  | f => s.pc.toNat ≤ 0xFFE ∧ FaultCause (decode (fetchOpcode s)) s f

theorem not_faultCause_error (e : UnknownWord) (s : State) (f : FaultStatus) : ¬ FaultCause (.error e) s f := by
  cases f <;> simp [FaultCause]

/-- No cause speaks of `PC`, so the advance of the fetch does not matter. -/
theorem faultCause_advancePc (d : Except UnknownWord Instr) (s : State) (f : FaultStatus) :
    FaultCause d (advancePc s) f ↔ FaultCause d s f := by
  cases f <;> exact Iff.rfl

section
variable {i : Instr} {s t : State} {f : FaultStatus}

/-- A cause raises its fault: no instruction has two. -/
theorem exec_of_faultCause (h : FaultCause (.ok i) s f) : exec i s = .next (takeFault f (s.pc - 2) s) := by
  cases f
  case none | fetchOutOfRange => exact h.elim
  case stackOverflow =>
    obtain ⟨hfull, nnn, hi⟩ := h
    cases hi
    exact exec_callAddr_of_full nnn hfull
  case stackUnderflow =>
    obtain ⟨hempty, hi⟩ := h
    cases hi
    exact exec_ret_of_empty hempty
  case dataAddressOutOfRange =>
    obtain ⟨x, y, n, hi, hn, hbig⟩ | ⟨x, hi, hbig⟩ | ⟨x, hi, hbig⟩ | ⟨x, hi, hbig⟩ := h <;> cases hi
    · refine exec_drwVxVyNibble_of_outOfRange x y ?_
      rw [Bool.eq_false_iff, ne_eq, spriteInRange_iff]
      omega
    · exact storeAtI_of_gt _ hbig
    · exact storeAtI_of_gt _ hbig
    · exact exec_ldVxMemI_of_gt hbig
  case keyIndexOutOfRange =>
    obtain ⟨x, hi | hi, hbig⟩ := h <;> cases hi
    · exact exec_skpVx_of_noKey (keyIndex_eq_none hbig)
    · exact exec_sknpVx_of_noKey (keyIndex_eq_none hbig)

/-- An instruction leaves `FAULT`, or raises a fault of which it has the cause. -/
theorem exec_fault_cases (he : exec i s = .next t) :
    t.fault = s.fault ∨ ∃ f, t = takeFault f (s.pc - 2) s ∧ FaultCause (.ok i) s f := by
  obtain ⟨t', ht', -, hsame | ⟨f, hf, -, hcause⟩⟩ := exec_cases i s <;> cases ht'.symm.trans he
  · exact .inl hsame
  · refine .inr ⟨f, hf, ?_⟩
    obtain ⟨rfl, hc⟩ | ⟨rfl, hc⟩ | ⟨rfl, hc⟩ | ⟨rfl, hc⟩ := hcause <;> simpa [FaultCause] using hc

theorem exec_fault_iff (hs : s.fault = .none) (he : exec i s = .next t) (hf : f ≠ .none) :
    t.fault = f ↔ FaultCause (.ok i) s f := by
  refine ⟨fun h => ?_, fun h => ?_⟩
  · obtain hsame | ⟨g, rfl, hcause⟩ := exec_fault_cases he
    · exact absurd (h.symm.trans (hsame.trans hs)) hf
    · exact h ▸ hcause
  · cases (exec_of_faultCause h).symm.trans he
    rfl

/-- A cycle from a state with no fault records a fault exactly when it has its cause. -/
theorem step_fault_iff (hs : s.fault = .none) (hstep : step s = .next t) (hf : f ≠ .none) :
    t.fault = f ↔ CycleFaultCause s f := by
  obtain hout | hin := Nat.lt_or_ge 0xFFE s.pc.toNat
  · cases (step_of_fetch_outOfRange hs hout).symm.trans hstep
    cases f <;> simp [CycleFaultCause, hout]
  · have hfetch : CycleFaultCause s f ↔ FaultCause (decode (fetchOpcode s)) s f := by
      cases f <;> simp [CycleFaultCause, FaultCause, hin]
    rw [hfetch]
    cases hd : decode (fetchOpcode s) with
    | error e =>
      cases (step_of_decode_error hs hin hd).symm.trans hstep
      simp [not_faultCause_error, hs, hf.symm]
    | ok i =>
      rw [← faultCause_advancePc]
      exact exec_fault_iff hs ((step_of_decode_ok hs hin hd).symm.trans hstep) hf

end

theorem faultCode_injective : Function.Injective faultCode := by
  intro f g h
  cases f <;> cases g <;> simp_all [faultCode]

/-- Settles O38: a code tells its fault, and a fault is recorded exactly under its cause. -/
theorem faultsHaveTheirStatedCauses : Obligations.FaultsHaveTheirStatedCauses := by
  intro s t hs hstep
  have key : ∀ f, f ≠ .none → (faultCode t.fault = faultCode f ↔ CycleFaultCause s f) := fun f hf =>
    faultCode_injective.eq_iff.trans (step_fault_iff hs hstep hf)
  exact ⟨key .fetchOutOfRange (by decide), key .stackOverflow (by decide), key .stackUnderflow (by decide),
    key .dataAddressOutOfRange (by decide), key .keyIndexOutOfRange (by decide)⟩

theorem onlyChanges_fault (s : State) (f : FaultStatus) : OnlyChanges [.fault] s { s with fault := f } := by
  intro p hp; cases p <;> simp_all [Unchanged, keyDown, readV]

/-- R85, R152: a fault takes back the advance of the fetch. -/
theorem takeFault_advancePc (f : FaultStatus) (s : State) :
    takeFault f ((advancePc s).pc - 2) (advancePc s) = { s with fault := f } := by
  rw [advancePc_pc, BitVec.add_sub_cancel]
  rfl

/-- Settles O37, by what the cycle did: only the fetch check and a raised fault change `FAULT`. -/
theorem faultsArePrecise : Obligations.FaultsArePrecise := by
  intro s t hstep hne
  obtain ⟨-, rfl⟩ | ⟨hrun, -, rfl⟩ | ⟨-, -, -, rfl⟩ | ⟨hrun, -, i, -, he⟩ := step_cases hstep
  · exact absurd rfl hne
  · exact ⟨(halted_eq_false_iff s).1 hrun, onlyChanges_fetchFault s⟩
  · exact absurd rfl hne
  · obtain hsame | ⟨f, rfl, -⟩ := exec_fault_cases he
    · exact absurd hsame hne
    · rw [takeFault_advancePc]
      exact ⟨(halted_eq_false_iff s).1 hrun, onlyChanges_fault s f⟩

/-- Settles O35. -/
theorem fetchOutOfRangeFaults : Obligations.FetchOutOfRangeFaults := fun s hs hout =>
  ⟨_, step_of_fetch_outOfRange hs hout, onlyChanges_fetchFault s, rfl⟩

/-- Settles O36. -/
theorem faultedCycleDoesNothing : Obligations.FaultedCycleDoesNothing := fun _ h =>
  step_of_halted fun hs => h (congrArg faultCode hs)

/-- Settles O40: both put `PC` back where the fetch took it from. -/
theorem selfJumpAndWaitAreFixedPoints : Obligations.SelfJumpAndWaitAreFixedPoints := by
  intro s hs hin
  have hback : setPc (advancePc s) s.pc = s := rfl
  refine ⟨fun nnn hd hself => ?_, fun x hd hup => ?_⟩
  · have hpc : zextAddr nnn = s.pc := BitVec.eq_of_toNat_eq ((toNat_zextAddr nnn).trans hself)
    have he : exec (.jpAddr nnn) (advancePc s) = .next (setPc (advancePc s) (zextAddr nnn)) := rfl
    rw [step_of_decode_ok hs hin hd, he, hpc, hback]
  · have hwaits : lowestKeyDown (advancePc s) = none := lowestKeyDown_eq_none_iff.2 hup
    rw [step_of_decode_ok hs hin hd, exec_ldVxK_of_none x hwaits, advancePc_pc, BitVec.add_sub_cancel, hback]

end Sys2Proof.Machine
end

section
/-! The access table of R31: the pieces and the registers each instruction may write, and that it writes no others. -/

namespace Sys2Proof

open Sys2Proof.Machine

/-- The pieces of state an instruction may change, seen from the state the fetch left: `PC` by the control transfers,
the skips and the wait, and with `FAULT` by what can raise a fault (R19, R31, R152). -/
def Instr.writes : Instr → List Piece
  | .cls => [.disp, .dirty]
  | .ret => [.sp, .pc, .fault]
  | .callAddr _ => [.stack, .sp, .pc, .fault]
  | .jpAddr _ | .jpV0Addr _ | .seVxByte _ _ | .sneVxByte _ _ | .seVxVy _ _ | .sneVxVy _ _ => [.pc]
  | .ldVxByte _ _ | .addVxByte _ _ | .ldVxVy _ _ | .orVxVy _ _ | .andVxVy _ _ | .xorVxVy _ _ | .addVxVy _ _
  | .subVxVy _ _ | .shrVx _ _ | .subnVxVy _ _ | .shlVx _ _ | .ldVxDt _ => [.v]
  | .rndVxByte _ _ => [.v, .draws]
  | .ldIAddr _ | .ldFVx _ => [.i]
  | .addIVx _ => [.v, .i]
  | .drwVxVyNibble _ _ _ => [.v, .disp, .dirty, .pc, .fault]
  | .skpVx _ | .sknpVx _ => [.pc, .fault]
  | .ldVxK _ => [.v, .pc]
  | .ldDtVx _ => [.dt]
  | .ldStVx _ => [.st]
  | .ldBVx _ | .ldMemIVx _ => [.mem, .pc, .fault]
  | .ldVxMemI _ => [.v, .pc, .fault]

/-- The V-registers an instruction may change: its destination, VF for a flag writer, or the loaded block (R15, R31). -/
def Instr.writesRegs : Instr → List Reg
  | .ldVxByte x _ | .addVxByte x _ | .rndVxByte x _ | .ldVxVy x _ | .orVxVy x _ | .andVxVy x _ | .xorVxVy x _
  | .ldVxDt x | .ldVxK x => [x]
  | .addVxVy x _ | .subVxVy x _ | .shrVx x _ | .subnVxVy x _ | .shlVx x _ => [x, 15]
  | .addIVx _ | .drwVxVyNibble _ _ _ => [15]
  | .ldVxMemI x => (List.finRange 16).filter (· ≤ x)
  | _ => []

end Sys2Proof

namespace Sys2Proof.Machine

section
variable {i : Instr} {s t : State}

/-- Two changes one after the other stay within the pieces of both. -/
theorem onlyChanges_append {ps qs : List Piece} {u : State} (h : OnlyChanges ps s t) (k : OnlyChanges qs t u) :
    OnlyChanges (ps ++ qs) s u :=
  onlyChanges_trans (onlyChanges_mono h (by simp)) (onlyChanges_mono k (by simp))

theorem onlyChanges_storeAtI {m : Nat} {ws : List Byte} (he : storeAtI s m ws = .next t) :
    OnlyChanges [.mem, .pc, .fault] s t := by
  obtain ⟨-, e⟩ | ⟨-, e⟩ := storeAtI_cases s m ws <;> cases e.symm.trans he
  · exact onlyChanges_mono (onlyChanges_setMem s _) (by simp)
  · exact onlyChanges_mono (onlyChanges_takeFault _ _ s) (by simp)

/-- R31: an instruction changes no piece of state but those it may write. -/
theorem exec_onlyChanges (he : exec i s = .next t) : OnlyChanges i.writes s t := by
  cases i
  case cls => cases he; exact onlyChanges_setDisp s _
  case ret =>
    obtain ⟨k, -, e⟩ | ⟨-, e⟩ := exec_ret_cases s <;> cases e.symm.trans he
    · exact onlyChanges_mono (onlyChanges_append (onlyChanges_sp s _) (onlyChanges_setPc _ _)) (by simp [Instr.writes])
    · exact onlyChanges_mono (onlyChanges_takeFault _ _ s) (by simp [Instr.writes])
  case callAddr nnn =>
    obtain ⟨hroom, e⟩ | ⟨-, e⟩ := exec_callAddr_cases nnn s <;> cases e.symm.trans he
    · exact onlyChanges_mono (onlyChanges_append (onlyChanges_stack_sp s _ _) (onlyChanges_setPc _ _))
        (by simp [Instr.writes])
    · exact onlyChanges_mono (onlyChanges_takeFault _ _ s) (by simp [Instr.writes])
  case jpAddr | jpV0Addr => cases he; exact onlyChanges_setPc s _
  case seVxByte | sneVxByte | seVxVy | sneVxVy => cases he; exact onlyChanges_skipIf _ s
  case ldVxByte | addVxByte | ldVxVy | orVxVy | andVxVy | xorVxVy | ldVxDt => cases he; exact onlyChanges_writeV s _ _
  case addVxVy | subVxVy | shrVx | subnVxVy | shlVx => cases he; exact onlyChanges_writeFlagThenV s _ _ _
  case rndVxByte => cases he; exact onlyChanges_append (onlyChanges_writeV s _ _) (onlyChanges_nextDraw _)
  case ldIAddr | ldFVx => cases he; exact onlyChanges_setI s _
  case addIVx => cases he; exact onlyChanges_append (onlyChanges_writeFlag s _) (onlyChanges_setI _ _)
  case drwVxVyNibble x y n =>
    cases hr : spriteInRange s n
    · cases (exec_drwVxVyNibble_of_outOfRange x y hr).symm.trans he
      exact onlyChanges_mono (onlyChanges_takeFault _ _ s) (by simp [Instr.writes])
    · cases (exec_drwVxVyNibble_of_inRange x y hr).symm.trans he
      exact onlyChanges_mono (onlyChanges_append (onlyChanges_writeFlag s _) (onlyChanges_setDisp _ _))
        (by simp [Instr.writes])
  case skpVx x | sknpVx x =>
    obtain ⟨c, rfl⟩ | rfl := exec_keySkip_cases (x := x) (by simp) he
    · exact onlyChanges_mono (onlyChanges_skipIf c s) (by simp [Instr.writes])
    · exact onlyChanges_takeFault _ _ s
  case ldVxK x =>
    cases hk : lowestKeyDown s
    · cases (exec_ldVxK_of_none x hk).symm.trans he
      exact onlyChanges_mono (onlyChanges_setPc s _) (by simp [Instr.writes])
    · cases (exec_ldVxK_of_some x hk).symm.trans he
      exact onlyChanges_mono (onlyChanges_writeV s _ _) (by simp [Instr.writes])
  case ldDtVx => cases he; exact onlyChanges_setDt s _
  case ldStVx => cases he; exact onlyChanges_setSt s _
  case ldBVx | ldMemIVx => exact onlyChanges_storeAtI he
  case ldVxMemI x =>
    obtain ⟨-, e⟩ | ⟨-, e⟩ := exec_ldVxMemI_cases x s <;> cases e.symm.trans he
    · exact onlyChanges_mono (onlyChanges_setRegs s _) (by simp [Instr.writes])
    · exact onlyChanges_mono (onlyChanges_takeFault _ _ s) (by simp [Instr.writes])

/-- R15, R31: an instruction changes no V-register but those it may write. -/
theorem exec_onlyRegs (he : exec i s = .next t) : OnlyRegs i.writesRegs s t := by
  have hkeeps : .v ∉ i.writes → OnlyRegs i.writesRegs s t := fun hv r _ => exec_onlyChanges he .v hv r
  cases i
  case ldVxByte | addVxByte | ldVxVy | orVxVy | andVxVy | xorVxVy | ldVxDt | rndVxByte =>
    cases he; exact onlyRegs_writeV s _ _
  case addVxVy | subVxVy | shrVx | subnVxVy | shlVx => cases he; exact onlyRegs_writeFlagThenV s _ _ _
  case addIVx => cases he; exact onlyRegs_writeFlag s _
  case drwVxVyNibble x y n =>
    cases hr : spriteInRange s n
    · cases (exec_drwVxVyNibble_of_outOfRange x y hr).symm.trans he; exact fun _ _ => rfl
    · cases (exec_drwVxVyNibble_of_inRange x y hr).symm.trans he; exact onlyRegs_writeFlag s _
  case ldVxK x =>
    cases hk : lowestKeyDown s
    · cases (exec_ldVxK_of_none x hk).symm.trans he; exact fun _ _ => rfl
    · cases (exec_ldVxK_of_some x hk).symm.trans he; exact onlyRegs_writeV s _ _
  case ldVxMemI x =>
    obtain ⟨-, e⟩ | ⟨-, e⟩ := exec_ldVxMemI_cases x s <;> cases e.symm.trans he
    · intro r hr
      have hx : ¬ r ≤ x := by simpa [Instr.writesRegs] using hr
      rw [readV_setRegs_regsLoaded, if_neg hx]
    · exact fun _ _ => rfl
  all_goals exact hkeeps (by simp [Instr.writes])

/-- A piece is unchanged, or the instruction is one that may write it. -/
theorem exec_unchanged_or (he : exec i s = .next t) (p : Piece) : Unchanged s t p ∨ p ∈ i.writes :=
  (em (p ∈ i.writes)).symm.imp_left (exec_onlyChanges he p)

theorem exec_readV_or (he : exec i s = .next t) (r : Reg) : readV t r = readV s r ∨ r ∈ i.writesRegs :=
  (em (r ∈ i.writesRegs)).symm.imp_left (exec_onlyRegs he r)

end

/-- The display and its flag are written by the same instructions (R132). -/
theorem dirty_mem_writes_iff (i : Instr) : .dirty ∈ i.writes ↔ .disp ∈ i.writes := by
  cases i <;> simp [Instr.writes]

/-- Settles O41: each clause names the instructions that have its piece, or its register, in the access table. -/
theorem onlyTheNamedInstructionsWrite : Obligations.OnlyTheNamedInstructionsWrite := by
  intro i s t he
  have hp := exec_unchanged_or he
  have hdisp : (Unchanged s t .disp ∧ Unchanged s t .dirty) ∨ .disp ∈ i.writes := by
    have hdirty := hp .dirty
    rw [dirty_mem_writes_iff] at hdirty
    rw [and_or_right]
    exact ⟨hp .disp, hdirty⟩
  refine ⟨(hp .mem).imp_right ?_, fun r => (exec_readV_or he r).imp_right fun hr => ?_, (hp .i).imp_right ?_,
    (hp .pc).imp_right ?_, (hp .stack).imp_right ?_, (hp .sp).imp_right ?_, (hp .dt).imp_right ?_,
    (hp .st).imp_right ?_, hdisp.imp_right ?_, (hp .key).resolve_right ?_, (hp .fault).imp_right ?_,
    (hp .log).resolve_right ?_, (hp .draws).imp_right ?_⟩
  case refine_2 =>
    cases i
    case addVxVy | subVxVy | shrVx | subnVxVy | shlVx =>
      obtain rfl | rfl : r = _ ∨ r = 15 := by simpa [Instr.writesRegs] using hr
      · simp
      · simp
    case addIVx | drwVxVyNibble =>
      obtain rfl : r = 15 := by simpa [Instr.writesRegs] using hr
      simp
    case ldVxMemI x =>
      have hx : r ≤ x := by simpa [Instr.writesRegs] using hr
      simp [hx]
    all_goals simp_all [Instr.writesRegs]
  all_goals cases i <;> simp [Instr.writes]

/-- R15: a flag is 0 or 1. -/
theorem flagByte_eq_zero_or_one (c : Bool) : flagByte c = 0 ∨ flagByte c = 1 := by
  cases c
  · exact .inl rfl
  · exact .inr rfl

/-- What the flag writers of family 8 (R101) leave in VF when it is not their destination. -/
theorem readV_vf_writeFlagThenV (s : State) (c : Bool) {x : Reg} (b : Byte) (hx : x ≠ 15) :
    readV (writeFlagThenV s c x b) 15 = 0 ∨ readV (writeFlagThenV s c x b) 15 = 1 := by
  rw [readV_writeFlagThenV_vf s c b hx]
  exact flagByte_eq_zero_or_one c

/-- Settles O42: the first part reads VF off the access table; in the second each writer leaves a flag byte. -/
theorem onlyFlagWritersTouchVF : Obligations.OnlyFlagWritersTouchVF := by
  intro i s t he
  refine ⟨(exec_readV_or he 15).imp_right fun hr => ?_, fun x y n => ?_⟩
  · cases i
    case ldVxMemI x =>
      have hle : 15 ≤ x := by simpa [Instr.writesRegs] using hr
      have hx : x = 15 := le_antisymm (Fin.le_last x) hle
      simp [hx]
    all_goals simp_all [Instr.writesRegs]
  · rintro (⟨hx, hi⟩ | rfl | ⟨rfl, hin⟩)
    · obtain rfl | rfl | rfl | rfl | rfl := hi <;> cases he <;> exact readV_vf_writeFlagThenV s _ _ hx
    · cases he
      rw [readV_setI, readV_writeFlag_vf]
      exact flagByte_eq_zero_or_one _
    · cases (exec_drwVxVyNibble_of_inRange x y hin).symm.trans he
      rw [readV_setDisp, readV_writeFlag_vf]
      exact flagByte_eq_zero_or_one _

end Sys2Proof.Machine
end

section
/-! What a cycle and an operation depend on (R10, R22, R24, R28, R86, R158): no instruction reads `ST`, `DIRTY` or the
record of events, and of the sequence of draws only the next one matters. -/

namespace Sys2Proof.Machine

/-- The state with `ST`, `DIRTY`, the record of events and the place in the sequence of draws replaced. -/
def overlay (s : State) (b : Byte) (d : Bool) (l : List LogUnknown) (n : Nat) : State :=
  { s with st := b, dirty := d, log := l, draws := n }

/-- What a transition from `s` to `t` does to other values of `ST`, `DIRTY` and the count of draws: it overwrites the
first two as it does in `t` or leaves them, and it consumes as many draws. -/
structure OverlayStep (s t : State) (b b' : Byte) (d d' : Bool) (n n' : Nat) : Prop where
  st : b' = t.st ∨ b' = b ∧ t.st = s.st
  dirty : d' = t.dirty ∨ d' = d ∧ t.dirty = s.dirty
  draws : n' + s.draws = t.draws + n

/-- From the overlaid state, `f` leads to an overlay of `t` with the same record of events. -/
abbrev CarriesOverlay (f : State → Host.Outcome State Fault Refusal) (s t : State) (b : Byte) (d : Bool)
    (l : List LogUnknown) (n : Nat) : Prop :=
  ∃ b' d' n', f (overlay s b d l n) = .next (overlay t b' d' l n') ∧ OverlayStep s t b b' d d' n n'

section
variable {i : Instr} {s t : State} {b : Byte} {d : Bool} {n : Nat}

theorem OverlayStep.kept (hst : t.st = s.st) (hdirty : t.dirty = s.dirty) (hdraws : t.draws = s.draws) :
    OverlayStep s t b b d d n n :=
  ⟨.inr ⟨rfl, hst⟩, .inr ⟨rfl, hdirty⟩, by rw [hdraws, Nat.add_comm]⟩

/-- R132: a write of the display sets `DIRTY`, whatever it was. -/
theorem OverlayStep.dirtied (hst : t.st = s.st) (hdirty : t.dirty = true) (hdraws : t.draws = s.draws) :
    OverlayStep s t b b d true n n :=
  ⟨.inr ⟨rfl, hst⟩, .inl hdirty.symm, by rw [hdraws, Nat.add_comm]⟩

variable (b d n) in
theorem skipIf_overlay (c : Bool) (s : State) (l : List LogUnknown) :
    skipIf c (overlay s b d l n) = overlay (skipIf c s) b d l n := by
  cases c <;> rfl

theorem storeAtI_overlay (l : List LogUnknown) {m : Nat} {ws : List Byte} (he : storeAtI s m ws = .next t) :
    CarriesOverlay (storeAtI · m ws) s t b d l n := by
  obtain ⟨hin, e⟩ | ⟨hbig, e⟩ := storeAtI_cases s m ws <;> cases e.symm.trans he
  · obtain ⟨-, e'⟩ | ⟨hbig', -⟩ := storeAtI_cases (overlay s b d l n) m ws
    · exact ⟨b, d, n, e', .kept rfl rfl rfl⟩
    · exact absurd hin (Nat.not_le.2 hbig')
  · exact ⟨b, d, n, storeAtI_of_gt (s := overlay s b d l n) ws hbig, .kept rfl rfl rfl⟩

theorem keySkip_overlay (l : List LogUnknown) {x : Reg} (hi : i = .skpVx x ∨ i = .sknpVx x) (he : exec i s = .next t) :
    CarriesOverlay (exec i) s t b d l n := by
  obtain ⟨up, hspec⟩ := exec_keySkip hi
  obtain ⟨hkey, hnone⟩ := hspec s
  obtain ⟨hkey', hnone'⟩ := hspec (overlay s b d l n)
  cases hk : keyIndex (readV s x) with
  | none =>
    cases (hnone hk).symm.trans he
    exact ⟨b, d, n, hnone' hk, .kept rfl rfl rfl⟩
  | some k =>
    cases (hkey k hk).symm.trans he
    exact ⟨b, d, n, (hkey' k hk).trans (congrArg Host.Outcome.next (skipIf_overlay b d n _ s l)),
      .kept (skipIf_st _ s) (skipIf_dirty _ s) (skipIf_draws _ s)⟩

/-- An instruction does to the overlaid state what it does to the state, up to the pieces overlaid. -/
theorem exec_overlay (l : List LogUnknown) (hdraw : Config.rnd n = Config.rnd s.draws) (he : exec i s = .next t) :
    CarriesOverlay (exec i) s t b d l n := by
  cases i
  case cls => cases he; exact ⟨b, true, n, rfl, .dirtied rfl rfl rfl⟩
  case ldStVx x => cases he; exact ⟨readV s x, d, n, rfl, .inl rfl, .inr ⟨rfl, rfl⟩, Nat.add_comm _ _⟩
  case rndVxByte x kk =>
    cases he
    refine ⟨b, d, n + 1, ?_, .inr ⟨rfl, rfl⟩, .inr ⟨rfl, rfl⟩, ?_⟩
    · have hcur : currentDraw (overlay s b d l n) = currentDraw s := hdraw
      simp only [exec, execRndVxByte, hcur]
      rfl
    · rw [nextDraw_draws, writeV_draws]; omega
  case ret =>
    obtain ⟨k, hk, e⟩ | ⟨hk, e⟩ := exec_ret_cases s <;> cases e.symm.trans he
    · exact ⟨b, d, n, exec_ret_of_sp_eq (s := overlay s b d l n) hk, .kept rfl rfl rfl⟩
    · exact ⟨b, d, n, exec_ret_of_empty (s := overlay s b d l n) hk, .kept rfl rfl rfl⟩
  case callAddr nnn =>
    obtain ⟨hroom, e⟩ | ⟨hfull, e⟩ := exec_callAddr_cases nnn s <;> cases e.symm.trans he
    · exact ⟨b, d, n, exec_callAddr_of_lt (s := overlay s b d l n) nnn hroom, .kept rfl rfl rfl⟩
    · exact ⟨b, d, n, exec_callAddr_of_full (s := overlay s b d l n) nnn hfull, .kept rfl rfl rfl⟩
  case drwVxVyNibble x y k =>
    cases hr : spriteInRange s k
    · cases (exec_drwVxVyNibble_of_outOfRange x y hr).symm.trans he
      exact ⟨b, d, n, exec_drwVxVyNibble_of_outOfRange (s := overlay s b d l n) x y hr, .kept rfl rfl rfl⟩
    · cases (exec_drwVxVyNibble_of_inRange x y hr).symm.trans he
      exact ⟨b, true, n, exec_drwVxVyNibble_of_inRange (s := overlay s b d l n) x y hr, .dirtied rfl rfl rfl⟩
  case skpVx x | sknpVx x => exact keySkip_overlay (x := x) l (by simp) he
  case seVxByte | sneVxByte | seVxVy | sneVxVy =>
    cases he
    exact ⟨b, d, n, congrArg Host.Outcome.next (skipIf_overlay b d n _ s l),
      .kept (skipIf_st _ s) (skipIf_dirty _ s) (skipIf_draws _ s)⟩
  case ldVxK x =>
    cases hk : lowestKeyDown s
    · cases (exec_ldVxK_of_none x hk).symm.trans he
      exact ⟨b, d, n, exec_ldVxK_of_none (s := overlay s b d l n) x hk, .kept rfl rfl rfl⟩
    · cases (exec_ldVxK_of_some x hk).symm.trans he
      exact ⟨b, d, n, exec_ldVxK_of_some (s := overlay s b d l n) x hk, .kept rfl rfl rfl⟩
  case ldBVx | ldMemIVx => exact storeAtI_overlay l he
  case ldVxMemI x =>
    obtain ⟨hin, e⟩ | ⟨hbig, e⟩ := exec_ldVxMemI_cases x s <;> cases e.symm.trans he
    · have hregs : regsLoaded (overlay s b d l n) x = regsLoaded s x := rfl
      have e' := exec_ldVxMemI_of_le (s := overlay s b d l n) hin
      rw [hregs] at e'
      exact ⟨b, d, n, e', .kept (setRegs_st s _) (setRegs_dirty s _) (setRegs_draws s _)⟩
    · exact ⟨b, d, n, exec_ldVxMemI_of_gt (s := overlay s b d l n) hbig, .kept rfl rfl rfl⟩
  all_goals cases he; exact ⟨b, d, n, rfl, .kept rfl rfl rfl⟩

/-- A cycle does to the overlaid state what it does to the state, and emits the same events. -/
theorem step_overlay (l : List LogUnknown) (hdraw : Config.rnd n = Config.rnd s.draws) (h : step s = .next t) :
    ∃ b' d' n' es, t.log = es ++ s.log ∧ step (overlay s b d l n) = .next (overlay t b' d' (es ++ l) n') ∧
      OverlayStep s t b b' d d' n n' := by
  obtain ⟨hhalt, rfl⟩ | ⟨hrun, hout, rfl⟩ | ⟨hrun, hin, ⟨e, hd⟩, rfl⟩ | ⟨hrun, hin, i, hd, he⟩ := step_cases h
  · exact ⟨b, d, n, [], rfl, step_of_halted (s := overlay t b d l n) ((halted_iff t).1 hhalt), .kept rfl rfl rfl⟩
  · have hpc : 0xFFE < s.pc.toNat := by
      rw [← Nat.not_le, ← fetchInRange_iff]; simp [hout]
    exact ⟨b, d, n, [], rfl, step_of_fetch_outOfRange (s := overlay s b d l n) ((halted_eq_false_iff s).1 hrun) hpc,
      .kept rfl rfl rfl⟩
  · exact ⟨b, d, n, [_], rfl, step_of_decode_error (s := overlay s b d l n) ((halted_eq_false_iff s).1 hrun)
      ((fetchInRange_iff s).1 hin) hd, .kept rfl rfl rfl⟩
  · have hlog : t.log = s.log := exec_onlyChanges he .log (by cases i <;> simp [Instr.writes])
    obtain ⟨b', d', n', he', hst, hdirty, hdraws⟩ := exec_overlay (s := advancePc s) (b := b) (d := d) l hdraw he
    have hstep := step_of_decode_ok (s := overlay s b d l n) ((halted_eq_false_iff s).1 hrun)
      ((fetchInRange_iff s).1 hin) hd
    exact ⟨b', d', n', [], hlog, hstep.trans he', hst, hdirty, hdraws⟩

end

/-- Settles O43: other values of the three pieces, at the same place in the sequence of draws. -/
theorem noInstructionReadsSoundTimerDirtyOrLog : Obligations.NoInstructionReadsSoundTimerDirtyOrLog := by
  intro s t b d l h
  obtain ⟨b', d', n', es, hlog, hstep, -, -, hdraws⟩ := step_overlay (b := b) (d := d) (n := s.draws) l rfl h
  obtain rfl : n' = t.draws := Nat.add_right_cancel hdraws
  exact ⟨b', d', es, hlog, hstep⟩

/-- Settles O59: two states with the same block are overlays of one another that keep `ST` and `DIRTY`; beside the
cycle no operation reads or writes what is beside the block. -/
theorem operationsDependOnBlockAndDrawOnly : Obligations.OperationsDependOnBlockAndDrawOnly := by
  intro op s u t r hblock hdraw hop
  have hu : u = overlay s s.st s.dirty u.log u.draws := eq_of_toBlock_eq hblock
  rw [hu] at hdraw ⊢
  cases op
  case cycle =>
    obtain ⟨hstep, rfl⟩ := step_of_perform_cycle hop
    obtain ⟨b', d', n', es, hlog, hstep', hst, hdirty, hdraws⟩ :=
      step_overlay (b := s.st) (d := s.dirty) u.log hdraw hstep
    obtain rfl : b' = t.st := hst.elim id fun h => h.1.trans h.2.symm
    obtain rfl : d' = t.dirty := hdirty.elim id fun h => h.1.trans h.2.symm
    exact ⟨_, es, perform_cycle_of_step hstep', rfl, hlog, rfl, hdraws⟩
  case loadProgram bytes =>
    obtain hbig | hfit := Nat.lt_or_ge 3584 bytes.length
    · cases (perform_loadProgram_of_gt hbig s).symm.trans hop
      exact ⟨_, [], perform_loadProgram_of_gt hbig _, rfl, rfl, rfl, Nat.add_comm _ _⟩
    · cases (perform_loadProgram_of_le hfit s).symm.trans hop
      exact ⟨_, [], perform_loadProgram_of_le hfit _, rfl, rfl, rfl, Nat.add_comm _ _⟩
  all_goals cases hop; exact ⟨_, [], rfl, rfl, rfl, rfl, Nat.add_comm _ _⟩

end Sys2Proof.Machine
end

section
/-! Families 60_exceptions.md and 70_reset_and_hazards.md: reset, load, ticks, schedules, and how a fault is left. -/

namespace Sys2Proof.Machine

/-! Reset and load (R180, R181). -/

/-- The table of reset values speaks of the block only. -/
theorem isReset_of_toBlock {s : State} (h : s.toBlock = Block.reset) : IsReset s := by
  obtain ⟨blk, l, n⟩ := s
  obtain rfl : blk = Block.reset := h
  refine ⟨fun a ha => if_pos ha, fun a ha => if_neg (Nat.not_lt.2 ha), fun r => ?_, rfl, rfl, fun k => ?_, rfl, rfl, rfl,
    cellOn_blank, rfl, fun k => ?_, rfl⟩ <;> simp [Block.reset, readV, keyDown]

/-- Settles O48. -/
theorem resetReachesTheTableFromAnyState : Obligations.ResetReachesTheTableFromAnyState :=
  ⟨isReset_of_toBlock rfl, fun s => ⟨resetOp s, rfl, isReset_of_toBlock (resetOp_toBlock s), rfl⟩⟩

/-- Settles O49: the image is one block write at 0x200, and every other piece but `KEY` and `STACK` is overwritten. -/
theorem loadInstallsAProgram : Obligations.LoadInstallsAProgram := by
  intro bytes s hfit
  refine ⟨_, perform_loadProgram_of_le hfit s, fun _ => rfl, fun _ => rfl, ?_, fun r => ?_, rfl, rfl, rfl, rfl, rfl,
    cellOn_blank, rfl, rfl⟩
  · exact readByte_writeBytes_at s.mem Config.loadAddr bytes
  · simp [readV, loadImage]

/-- Settles O56. -/
theorem resetAndLoadLeaveAFault : Obligations.ResetAndLoadLeaveAFault := by
  intro bytes s hfit op hop
  obtain rfl | rfl : op = .reset ∨ op = .loadProgram bytes := by simpa using hop
  · exact ⟨_, _, rfl, rfl, rfl, rfl⟩
  · exact ⟨_, _, perform_loadProgram_of_le hfit s, rfl, rfl, rfl⟩

/-- Settles O60. -/
theorem faultStatusAnswersTheCode : Obligations.FaultStatusAnswersTheCode :=
  ⟨fun _ => rfl, rfl, rfl, rfl, rfl, rfl, rfl⟩

/-! Ticks that follow one another (R165, R166). -/

/-- `n` ticks take `n` off `ST`, which stops at 0. -/
theorem st_iterate_tickTimers (s : State) (n : Nat) :
    ((fun u => (tickTimers u).1)^[n] s).st.toNat = s.st.toNat - n := by
  induction n with
  | zero => rfl
  | succ n ih =>
    have htick : ∀ u, (tickTimers u).1.st.toNat = u.st.toNat - 1 := fun u => countDown_toNat u.st
    rw [Function.iterate_succ_apply', htick, ih, Nat.sub_sub]

/-- Settles O53: the tone is due when what is left of `ST` is 1. -/
theorem toneIsDueOnExactlyOneTick : Obligations.ToneIsDueOnExactlyOneTick := by
  intro s n
  rw [tickTimers, toneDue_eq_true_iff, st_iterate_tickTimers]
  omega

/-! Schedules (R8). -/

/-- Every operation answers a state and a reply (R86, R168). -/
theorem perform_total (op : Operation) (s : State) : ∃ t r, perform op s = .next (t, r) := by
  cases op
  case cycle =>
    obtain ⟨t, ht, -⟩ := everyCycleCompletes s
    exact ⟨t, _, perform_cycle_of_step ht⟩
  all_goals exact ⟨_, _, rfl⟩

theorem runSchedule_cons {op : Operation} {ops : List Operation} {s t u : State} {r : Reply} {rs : List Reply}
    (hop : perform op s = .next (t, r)) (hrun : runSchedule ops t = .next (u, rs)) :
    runSchedule (op :: ops) s = .next (u, r :: rs) := by
  simp only [runSchedule, hop, hrun]

/-- Settles O57, by induction on the schedule. -/
theorem everyScheduleRuns : Obligations.EveryScheduleRuns := by
  intro ops
  induction ops with
  | nil => exact fun s => ⟨s, [], rfl, rfl⟩
  | cons op ops ih =>
    intro s
    obtain ⟨t, r, hop⟩ := perform_total op s
    obtain ⟨u, rs, hrun, hlen⟩ := ih t
    exact ⟨u, r :: rs, runSchedule_cons hop hrun, congrArg (· + 1) hlen⟩

/-- A schedule that runs is its first operation and then the rest. -/
theorem runSchedule_cons_cases {op : Operation} {ops : List Operation} {s u : State} {rs : List Reply}
    (h : runSchedule (op :: ops) s = .next (u, rs)) :
    ∃ t r rs', perform op s = .next (t, r) ∧ runSchedule ops t = .next (u, rs') := by
  obtain ⟨t, r, hop⟩ := perform_total op s
  obtain ⟨v, rs', hrun, -⟩ := everyScheduleRuns ops t
  cases (runSchedule_cons hop hrun).symm.trans h
  exact ⟨t, r, rs', hop, hrun⟩

/-- While a fault is recorded, an operation other than `reset` and a load that fits changes timers, keypad and `DIRTY`
at most (R156). -/
theorem perform_of_faulted {op : Operation} {s t : State} {r : Reply} (hs : s.fault ≠ .none) (hreset : op ≠ .reset)
    (hload : ∀ bytes, op = .loadProgram bytes → 3584 < bytes.length) (hop : perform op s = .next (t, r)) :
    OnlyChanges [.dt, .st, .key, .dirty] s t := by
  cases op
  case reset => exact absurd rfl hreset
  case loadProgram bytes =>
    cases (perform_loadProgram_of_gt (hload bytes rfl) s).symm.trans hop
    exact onlyChanges_refl _ s
  case cycle =>
    cases (step_of_halted hs).symm.trans (step_of_perform_cycle hop).1
    exact onlyChanges_refl _ s
  case tickTimers => cases hop; exact onlyChanges_mono (onlyChanges_tickTimers s) (by simp)
  case setKey k down => cases hop; exact onlyChanges_mono (onlyChanges_setKey k down s) (by simp)
  case takeDirty => cases hop; exact onlyChanges_mono (onlyChanges_takeDirty s) (by simp)
  all_goals cases hop; exact onlyChanges_refl _ s

/-- Settles O55, by induction on the schedule: the fault is among what does not change. -/
theorem faultStaysUntilResetOrLoad : Obligations.FaultStaysUntilResetOrLoad := by
  intro ops
  induction ops with
  | nil => intro s t rs _ _ _ hrun; cases hrun; exact onlyChanges_refl _ s
  | cons op ops ih =>
    intro s u rs hs hreset hload hrun
    obtain ⟨t, r, rs', hop, hrest⟩ := runSchedule_cons_cases hrun
    rw [List.mem_cons, not_or] at hreset
    have hfirst : OnlyChanges [.dt, .st, .key, .dirty] s t :=
      perform_of_faulted hs (Ne.symm hreset.1) (fun bytes e => hload bytes (e ▸ List.mem_cons_self)) hop
    have hfault : t.fault = s.fault := hfirst .fault (by simp)
    exact onlyChanges_trans hfirst (ih t u rs' (hfault ▸ hs) hreset.2
      (fun bytes hb => hload bytes (List.mem_cons_of_mem op hb)) hrest)

/-! A run from reset without a program (R185). -/

/-- The reset state with `PC` moved to `p` and some events recorded. -/
def resetAt (p : Nat) (l : List LogUnknown) : State := { State.reset with pc := BitVec.ofNat 16 p, log := l }

theorem resetAt_pc_toNat {p : Nat} (hp : p ≤ 0x1000) (l : List LogUnknown) : (resetAt p l).pc.toNat = p := by
  simp only [resetAt, BitVec.toNat_ofNat]
  omega

theorem skipUnknown_resetAt (op : Word) (p : Nat) (l : List LogUnknown) :
    skipUnknown op (resetAt p l) = resetAt (p + 2) (⟨op, BitVec.ofNat 16 p⟩ :: l) := by
  simp only [skipUnknown, resetAt, BitVec.ofNat_add]
  rfl

/-- Above the font the reset memory is zeros, and 0x0000 is an unknown word. -/
theorem step_resetAt {p : Nat} (hlow : 80 ≤ p) (hhigh : p ≤ 0xFFE) (l : List LogUnknown) :
    ∃ e, step (resetAt p l) = .next (resetAt (p + 2) (e :: l)) := by
  have hpc : (resetAt p l).pc.toNat = p := resetAt_pc_toNat (by omega) l
  have hzero : ∀ a, 80 ≤ a → readByte (resetAt p l).mem a = 0 := fun a ha => if_neg (Nat.not_lt.2 ha)
  have hword : fetchOpcode (resetAt p l) = 0 := by
    rw [fetchOpcode, hpc, hzero p hlow, hzero (p + 1) (by omega)]
    rfl
  have hd : decode (fetchOpcode (resetAt p l)) = .error .family0 := by rw [hword]; decide
  have hstep := step_of_decode_error rfl (by omega) hd
  rw [skipUnknown_resetAt] at hstep
  exact ⟨_, hstep⟩

theorem run_succ_of_step {s t : State} (h : step s = .next t) (k : Nat) : core.run (k + 1) s = core.run k t := by
  have h' : core.step s = .next t := h
  simp only [Host.Core.run, h']

/-- `k` cycles from `p` skip `k` words; what runs after them starts behind these. -/
theorem run_resetAt {p : Nat} (hlow : 80 ≤ p) (k : Nat) (l : List LogUnknown) (hhigh : p + 2 * k ≤ 0x1000) :
    ∃ l', l'.length = l.length + k ∧
      ∀ m, core.run (m + k) (resetAt p l) = core.run m (resetAt (p + 2 * k) l') := by
  induction k generalizing p l with
  | zero => exact ⟨l, rfl, fun _ => rfl⟩
  | succ k ih =>
    obtain ⟨e, he⟩ := step_resetAt hlow (by omega) l
    obtain ⟨l', hlen, hrun⟩ := ih (p := p + 2) (by omega) (e :: l) (by omega)
    refine ⟨l', by rw [hlen, List.length_cons]; omega, fun m => ?_⟩
    rw [← Nat.add_assoc, run_succ_of_step he, hrun, Nat.mul_succ, Nat.add_assoc p, Nat.add_comm 2]

theorem onlyChanges_resetAt (p : Nat) (l : List LogUnknown) : OnlyChanges [.pc, .log] State.reset (resetAt p l) := by
  intro q hq; cases q <;> simp_all [Unchanged, resetAt, keyDown, readV]

/-- Settles O58: 1792 words of two bytes lie between 0x200 and the end of memory. -/
theorem emptyMemoryRunsToTheEndAndFaults : Obligations.EmptyMemoryRunsToTheEndAndFaults := by
  have hrun : ∀ k ≤ 1792, ∃ l : List LogUnknown, l.length = k ∧
      ∀ m, core.run (m + k) State.reset = core.run m (resetAt (0x200 + 2 * k) l) := by
    intro k hk
    obtain ⟨l, hlen, hrun⟩ := run_resetAt (p := 0x200) (by decide) k [] (by omega)
    exact ⟨l, by simpa using hlen, hrun⟩
  refine ⟨fun k hk => ?_, ?_⟩
  · obtain ⟨l, hlen, hk'⟩ := hrun k hk
    have hend := hk' 0
    rw [Nat.zero_add] at hend
    exact ⟨_, hend, onlyChanges_resetAt _ l, resetAt_pc_toNat (by omega) l, hlen⟩
  · obtain ⟨l, hlen, hk'⟩ := hrun 1792 (by decide)
    have hpc := resetAt_pc_toNat (p := 0x1000) (by decide) l
    have hfault : step (resetAt 0x1000 l) = .next (fetchFault (resetAt 0x1000 l)) :=
      step_of_fetch_outOfRange rfl (by omega)
    exact ⟨_, (hk' 1).trans (run_succ_of_step hfault 0), rfl, hpc, hlen⟩

end Sys2Proof.Machine
end
